-- ==== Sys2Proof/Word.lean ====
section
/-! DEFINITION. The word types of the block: 64-bit data words, bytes, and 24-bit bus addresses. -/

namespace Sys2Proof

/-- The data word, W = 64 bits (00_scope.md R3). -/
abbrev Word := BitVec 64

/-- One byte lane of the data bus (20_memory.md R64). -/
abbrev Byte := BitVec 8

/-- A host-bus byte address (00_scope.md R9). -/
abbrev BusAddr := BitVec 24

end Sys2Proof
end

