-- ==== Sys2Proof/Syntax.lean ====
section
/-! DEFINITION. The two encoded objects of 30_encoding.md: the command (one constructor per row of opcode_table.json,
and the fields of the command word) and the bus transaction. -/

namespace Sys2Proof

/-- The 19 commands (30_encoding.md R93). No command carries an operand in its word (R94). -/
inductive Instr where
  | nop        -- NOP
  | nttInit    -- NTT.INIT
  | fftInit    -- FFT.INIT
  | nttFwd     -- NTT.FWD
  | fftFwd     -- FFT.FWD
  | nttInv     -- NTT.INV
  | fftInv     -- FFT.INV
  | nttRelease -- NTT.RELEASE
  | fftRelease -- FFT.RELEASE
  | bitrevW    -- BITREV.W
  | bitrevC    -- BITREV.C
  | isprime    -- ISPRIME
  | primroot   -- PRIMROOT
  | rootunity  -- ROOTUNITY
  | egcd       -- EGCD
  | modinv     -- MODINV
  | pow        -- POW
  | ispow2     -- ISPOW2
  | bitrevn    -- BITREVN
  deriving DecidableEq, Repr

/-- The fields of a command word (30_encoding.md R90): RSV [63:9], DOM [8], OPCODE [7:0]. -/
structure CmdFields where
  rsv    : BitVec 55
  dom    : BitVec 1
  opcode : BitVec 8
  deriving DecidableEq, Repr

/-- A bus transaction (20_memory.md R61, 30_encoding.md R91). -/
inductive Transaction where
  | read  (addr : BusAddr) (strobe : BitVec 8)
  | write (addr : BusAddr) (strobe : BitVec 8) (data : Word)
  deriving DecidableEq, Repr

/-- The two bus responses (20_memory.md R62). -/
inductive Resp where
  | okay
  | error
  deriving DecidableEq, Repr

/-- What the block answers to one transaction (20_memory.md R61): a Read carries data, a Write does not. -/
inductive Response where
  | read  (resp : Resp) (data : Word)
  | write (resp : Resp)
  deriving DecidableEq, Repr

end Sys2Proof
end

