-- ==== Sys2Proof/WellFormed.lean ====
section
/-! DEFINITION. The well-formedness checks of the two encoded objects. A command itself has no operand, so every
command is well formed; what can be ill formed is a command word (30_encoding.md R95) or a transaction (20_memory.md R63). -/

namespace Sys2Proof

/-- A command has no field to check (30_encoding.md R94: "There are no immediates"). -/
def Instr.wellFormed (_ : Instr) : Bool := true

/-- RSV [63:9] must be 0 (30_encoding.md R90). -/
def CmdFields.rsvZero (f : CmdFields) : Bool := f.rsv == 0

/-- OPCODE is assigned: not 0x06 to 0x0F and not 0x18 to 0xFF (30_encoding.md R95). -/
def CmdFields.opcodeAssigned (f : CmdFields) : Bool :=
  f.opcode.toNat ≤ 0x05 || (0x10 ≤ f.opcode.toNat && f.opcode.toNat ≤ 0x17)

/-- DOM = 1 only with OPCODE 0x01 to 0x05 (30_encoding.md R90). -/
def CmdFields.domLegal (f : CmdFields) : Bool :=
  f.dom == 0 || (0x01 ≤ f.opcode.toNat && f.opcode.toNat ≤ 0x05)

/-- The three checks of a command word (30_encoding.md R95). -/
def CmdFields.wellFormed (f : CmdFields) : Bool :=
  f.rsvZero && f.opcodeAssigned && f.domLegal

/-- The byte address of a transaction. -/
def Transaction.addr : Transaction → BusAddr
  | .read a _ => a
  | .write a _ _ => a

/-- The byte-lane enables of a transaction. -/
def Transaction.strobe : Transaction → BitVec 8
  | .read _ b => b
  | .write _ b _ => b

/-- Every byte lane is enabled (20_memory.md R63). -/
def Transaction.fullStrobe (t : Transaction) : Bool := t.strobe == 0xFF

/-- The address is 8-byte aligned (20_memory.md R63). -/
def Transaction.aligned (t : Transaction) : Bool := t.addr.toNat % 8 == 0

/-- The only legal access: strobe = 0xFF and addr mod 8 = 0 (20_memory.md R63). -/
def Transaction.legal (t : Transaction) : Bool := t.fullStrobe && t.aligned

end Sys2Proof
end

