-- ==== Sys2Proof/Decode.lean ====
section
/-! DEFINITION. The decoder of command words, total and rejecting by name, and the encoder. -/

namespace Sys2Proof

/-- Why a word is no command word (30_encoding.md R95). -/
inductive DecodeError where
  /-- a bit of [63:9] is set -/
  | reservedBits
  /-- an OPCODE in 0x06 to 0x0F or 0x18 to 0xFF -/
  | unassignedOpcode
  /-- DOM = 1 with OPCODE 0x00 or 0x10 to 0x17 -/
  | illegalDomain
  deriving DecidableEq, Repr

/-- One row of the opcode map: a command word and its command (30_encoding.md R93). -/
structure OpcodeRow where
  word  : Word
  instr : Instr
  deriving DecidableEq, Repr

/-- The opcode map, column "command word" (30_encoding.md R93). Every row matches one exact value. -/
def opcodeTable : List OpcodeRow :=
  [⟨0x0000000000000000, .nop⟩,
   ⟨0x0000000000000001, .nttInit⟩,
   ⟨0x0000000000000101, .fftInit⟩,
   ⟨0x0000000000000002, .nttFwd⟩,
   ⟨0x0000000000000102, .fftFwd⟩,
   ⟨0x0000000000000003, .nttInv⟩,
   ⟨0x0000000000000103, .fftInv⟩,
   ⟨0x0000000000000004, .nttRelease⟩,
   ⟨0x0000000000000104, .fftRelease⟩,
   ⟨0x0000000000000005, .bitrevW⟩,
   ⟨0x0000000000000105, .bitrevC⟩,
   ⟨0x0000000000000010, .isprime⟩,
   ⟨0x0000000000000011, .primroot⟩,
   ⟨0x0000000000000012, .rootunity⟩,
   ⟨0x0000000000000013, .egcd⟩,
   ⟨0x0000000000000014, .modinv⟩,
   ⟨0x0000000000000015, .pow⟩,
   ⟨0x0000000000000016, .ispow2⟩,
   ⟨0x0000000000000017, .bitrevn⟩]

/-- The fields of a word (30_encoding.md R90). -/
def fieldsOf (c : Word) : CmdFields :=
  ⟨c.extractLsb' 9 55, c.extractLsb' 8 1, c.extractLsb' 0 8⟩

/-- The name of what is wrong with a word outside the table, by the three kinds of 30_encoding.md R95. -/
def rejection (c : Word) : DecodeError :=
  if !(fieldsOf c).rsvZero then .reservedBits
  else if !(fieldsOf c).opcodeAssigned then .unassignedOpcode
  else .illegalDomain

/-- "A decoder compares all 64 bits of the command word with the list" (30_encoding.md R93, 40_control.md R111). -/
def decode (c : Word) : Except DecodeError Instr :=
  match opcodeTable.find? (fun r => r.word == c) with
  | some r => .ok r.instr
  | none => .error (rejection c)

/-- The OPCODE and DOM columns of 30_encoding.md R93, with RSV = 0 (R90). -/
def fieldsOfInstr : Instr → CmdFields
  | .nop        => ⟨0, 0, 0x00⟩
  | .nttInit    => ⟨0, 0, 0x01⟩
  | .fftInit    => ⟨0, 1, 0x01⟩
  | .nttFwd     => ⟨0, 0, 0x02⟩
  | .fftFwd     => ⟨0, 1, 0x02⟩
  | .nttInv     => ⟨0, 0, 0x03⟩
  | .fftInv     => ⟨0, 1, 0x03⟩
  | .nttRelease => ⟨0, 0, 0x04⟩
  | .fftRelease => ⟨0, 1, 0x04⟩
  | .bitrevW    => ⟨0, 0, 0x05⟩
  | .bitrevC    => ⟨0, 1, 0x05⟩
  | .isprime    => ⟨0, 0, 0x10⟩
  | .primroot   => ⟨0, 0, 0x11⟩
  | .rootunity  => ⟨0, 0, 0x12⟩
  | .egcd       => ⟨0, 0, 0x13⟩
  | .modinv     => ⟨0, 0, 0x14⟩
  | .pow        => ⟨0, 0, 0x15⟩
  | .ispow2     => ⟨0, 0, 0x16⟩
  | .bitrevn    => ⟨0, 0, 0x17⟩

/-- A command word from its fields: RSV above DOM above OPCODE (30_encoding.md R90). -/
def packFields (f : CmdFields) : Word := f.rsv ++ f.dom ++ f.opcode

/-- The command word of a command (30_encoding.md R93). -/
def encode (i : Instr) : Word := packFields (fieldsOfInstr i)

/-- The instruction the decoder reads from the `nbits` low bits of `w`, every higher bit 0: a command is one 64-bit
word, so a number that does not fit 64 bits is none. -/
def decodeTableWord (nbits w : Nat) : Option Instr :=
  if w % 2 ^ nbits < 2 ^ 64 then (decode (BitVec.ofNat 64 (w % 2 ^ nbits))).toOption else none

end Sys2Proof
end

