-- ==== Sys2Proof/Config.lean ====
section
/-! DEFINITION. What an implementation fixes (LOG_NMAX) and the one free value (the witness source). -/

namespace Sys2Proof

/-- The build parameter `LOG_NMAX`, 1 to 16 (00_scope.md R5), held as LOG_NMAX - 1 so that no other value exists.
`State` carries it and no step changes it, so a claim about every state is a claim about every build (log entry 1). -/
structure Config where
  logNMaxPred : Fin 16
  deriving DecidableEq, Repr

/-- `LOG_NMAX` (00_scope.md R5). -/
def Config.logNMax (c : Config) : Nat := c.logNMaxPred.val + 1

/-- `N_MAX = 2^LOG_NMAX`, the largest transform length (00_scope.md R5). -/
def Config.nMax (c : Config) : Nat := 2 ^ c.logNMax

/-- The reference build, LOG_NMAX = 12 (00_scope.md R5). DESIGN CHOICE as the build of `State.reset` (log entry 1). -/
def Config.reference : Config := ⟨11⟩

/-- The witness generator's state (10_state.md R29, R43 item 2): the seed it was last given, and the draws made since,
newest first, as (number drawn for, how many draws in a row). Every deterministic generator's state is a function of
these two (log entry 5). -/
structure WitnessGen where
  seed  : Word
  drawn : List (Nat × Nat)
  deriving DecidableEq, Repr

/-- `WitnessGen.seed(value)` (10_state.md R29). -/
def WitnessGen.seeded (v : Word) : WitnessGen := ⟨v, []⟩

/-- FREE VALUE: the raw witness the generator in a given state yields for a number (00_scope.md R7, the OPEN parameter
WitnessGen of 92_eei_decisions.md D18). `drawWitness` maps it into [1, x - 1] (log entry 5). -/
opaque Config.witness : WitnessGen → Nat → Nat

end Sys2Proof
end

