-- ==== Sys2Proof/Machine/State.lean ====
section
/-! DEFINITION. The state of the block: every register, flag, context and memory the spec names, the witness
generator's state, and the model's own fields (the build, the schedule of events, the answers given). -/

namespace Sys2Proof.Machine

/-- The six memories in one list of (bus byte address, byte), in canonical form: addresses strictly rising, and no byte
equal to what an unlisted address reads as (20_memory.md R60, log entries 6 and 7). -/
abbrev Memory := List Host.Cell

/-- The fields of STATUS (10_state.md R26). The reserved bits read 0 and have no storage. -/
structure Status where
  busy     : Bool
  done     : Bool
  err      : Bool
  overrun  : Bool
  nttReady : Bool
  fftReady : Bool
  errcode  : BitVec 8
  deriving DecidableEq, Repr

/-- The NTT parameter registers (10_state.md R34). READY stands in `Status`, the tables in memory (R40). -/
structure NttContext where
  q      : Word
  n      : Word
  psi    : Word
  psiInv : Word
  nInv   : Word
  deriving DecidableEq, Repr

/-- The FFT parameter registers (10_state.md R35). -/
structure FftContext where
  n   : Word
  wRe : Word
  wIm : Word
  deriving DecidableEq, Repr

/-- What happens next at the block's boundary (00_scope.md R10, 20_memory.md R70; log entry 2). -/
inductive Event where
  /-- the host performs a transaction -/
  | host (t : Transaction)
  /-- the engine's turn: it executes and completes the command in flight; with none in flight nothing happens -/
  | engine
  /-- the reset input is asserted; the memories come up with these bytes (70_reset_and_hazards.md R240, R242) -/
  | powerOn (contents : List Host.Cell)
  deriving DecidableEq, Repr

/-- The state of the block. -/
structure State where
  /-- MODEL: the build (00_scope.md R5), changed by no step (log entry 1) -/
  config    : Config
  /-- CMD: the last accepted command word (10_state.md R25) -/
  cmd       : Word
  /-- STATUS (10_state.md R26) -/
  status    : Status
  /-- CTRL.IRQ_EN (10_state.md R27) -/
  irqEn     : Bool
  /-- IRQ.PEND (10_state.md R30) -/
  irqPend   : Bool
  /-- MR_TRIALS.TRIALS (10_state.md R28) -/
  mrTrials  : BitVec 32
  /-- MR_SEED (10_state.md R29) -/
  mrSeed    : Word
  /-- the witness generator state (10_state.md R43 item 2) -/
  gen       : WitnessGen
  /-- OPA, OPB, OPC (10_state.md R31) -/
  opa       : Word
  opb       : Word
  opc       : Word
  /-- LEN (10_state.md R32) -/
  len       : Word
  /-- RES0, RES1, RES2 (10_state.md R33) -/
  res0      : Word
  res1      : Word
  res2      : Word
  /-- NTT_Q, NTT_N, NTT_PSI, NTT_PSI_INV, NTT_N_INV (10_state.md R34) -/
  ntt       : NttContext
  /-- FFT_N, FFT_W_RE, FFT_W_IM (10_state.md R35) -/
  fft       : FftContext
  /-- IN, OUT, TWN_FWD, TWN_INV, TWF_FWD, TWF_INV (10_state.md R41) -/
  mem       : Memory
  /-- MODEL: the events still to come (log entry 2) -/
  schedule  : List Event
  /-- MODEL: the answers given on the bus, newest first (log entry 3) -/
  responses : List Response
  deriving DecidableEq, Repr

/-- No condition of the block stops the machine: "There are no fatal/process-terminating conditions" (40_control.md
R112). A typed error is an error completion (60_exceptions.md R210) and a bus ERROR is an answer (R214), both of them
next states. So there is no fault to name (log entry 10). -/
inductive Fault where
  deriving DecidableEq, Repr

/-- Why a step is refused. -/
inductive Refusal where
  /-- Raised by an arm of `exec` whose command has no meaning yet; no arm of this model is one. Safe: the model stops
  where the hardware goes on. -/
  | notModelled (mnemonic : String)
  deriving DecidableEq, Repr

/-- STATUS after reset: 0 (70_reset_and_hazards.md R240). -/
def Status.cleared : Status :=
  { busy := false, done := false, err := false, overrun := false, nttReady := false, fftReady := false, errcode := 0 }

/-- The NTT parameter registers with no engine: all 0 (10_state.md R34). -/
def NttContext.cleared : NttContext := { q := 0, n := 0, psi := 0, psiInv := 0, nInv := 0 }

/-- The FFT parameter registers with no engine: all 0 (10_state.md R35). -/
def FftContext.cleared : FftContext := { n := 0, wRe := 0, wIm := 0 }

/-- The block right after the power-on reset (70_reset_and_hazards.md R240, R243). The build is the reference build
(log entry 1), no memory byte is listed (log entry 6), and no event is scheduled (log entries 2 and 8). -/
def State.reset : State :=
  { config := Config.reference
    cmd := 0
    status := Status.cleared
    irqEn := false
    irqPend := false
    mrTrials := 1000
    mrSeed := 0
    gen := WitnessGen.seeded 0
    opa := 0
    opb := 0
    opc := 0
    len := 0
    res0 := 0
    res1 := 0
    res2 := 0
    ntt := NttContext.cleared
    fft := FftContext.cleared
    mem := []
    schedule := []
    responses := [] }

end Sys2Proof.Machine
end

