-- ==== Sys2Proof/Machine/Flags.lean ====
section
/-! DEFINITION. Every flag the block has: the fields of STATUS and IRQ.PEND, what sets and clears them, the error
codes, and the interrupt line (10_state.md R23, R26, R30; 60_exceptions.md R211, R220). -/

namespace Sys2Proof.Machine

/-- The error kinds (60_exceptions.md R211). Success, code 0x00, is no error kind. -/
inductive ErrorCode where
  | invalidLength
  | invalidDegree
  | notPrime
  | invalidOrder
  | primitiveRootNotFound
  | invalidGcd
  | invalidExponent
  | lengthNotPowerOfTwo
  | illegalCommand
  | notReady
  | capacity
  | invalidModulus
  | rootDegenerate
  | operandRange
  deriving DecidableEq, Repr

/-- The number STATUS.ERRCODE holds for an error kind (60_exceptions.md R211). -/
def ErrorCode.code : ErrorCode → BitVec 8
  | .invalidLength         => 0x01
  | .invalidDegree         => 0x02
  | .notPrime              => 0x03
  | .invalidOrder          => 0x04
  | .primitiveRootNotFound => 0x05
  | .invalidGcd            => 0x06
  | .invalidExponent       => 0x07
  | .lengthNotPowerOfTwo   => 0x08
  | .illegalCommand        => 0x10
  | .notReady              => 0x11
  | .capacity              => 0x12
  | .invalidModulus        => 0x13
  | .rootDegenerate        => 0x14
  | .operandRange          => 0x15

/-- The STATUS word (10_state.md R26): BUSY 0, DONE 1, ERR 2, OVERRUN 3, NTT_READY 4, FFT_READY 5, ERRCODE [15:8]; the
reserved bits [7:6] and [63:16] read 0. -/
def Status.word (f : Status) : Word :=
  (0#48 : BitVec 48) ++ f.errcode ++ (0#2 : BitVec 2) ++ BitVec.ofBool f.fftReady ++ BitVec.ofBool f.nttReady
    ++ BitVec.ofBool f.overrun ++ BitVec.ofBool f.err ++ BitVec.ofBool f.done ++ BitVec.ofBool f.busy

/-- The flags an acceptance writes (40_control.md R110). -/
def Status.accepted (f : Status) : Status :=
  { f with busy := true, done := false, err := false, overrun := false, errcode := 0 }

/-- The flags a completion with code `e` writes, 0 for success (40_control.md R112). -/
def Status.completed (e : BitVec 8) (f : Status) : Status :=
  { f with busy := false, done := true, err := e != 0, errcode := e }

/-- The CTRL word: IRQ_EN in bit 0; SOFT_RESET and the reserved bits read 0 (10_state.md R27). -/
def ctrlWord (s : State) : Word := (0#63 : BitVec 63) ++ BitVec.ofBool s.irqEn

/-- The IRQ word: PEND in bit 0 (10_state.md R30). -/
def irqWord (s : State) : Word := (0#63 : BitVec 63) ++ BitVec.ofBool s.irqPend

/-- The interrupt output: level, active high (60_exceptions.md R220). -/
def irqLine (s : State) : Bool := s.irqPend && s.irqEn

end Sys2Proof.Machine
end

