-- ==== Sys2Proof/Machine/Ops.lean ====
section
/-! DEFINITION. The named operations: memory bytes and words, the six windows, the result registers, the command frame
(accept, complete, raise), the two resets, and the acknowledgement. -/

namespace Sys2Proof.Machine

/-! ### Memory -/

/-- What a byte that no entry lists reads as. 70_reset_and_hazards.md R242 leaves the power-on contents open.
DESIGN CHOICE 0 (log entry 6). -/
def unlistedByte : Byte := 0

/-- Read one byte. -/
def Memory.readByte : Memory → Nat → Byte
  | [], _ => unlistedByte
  | (b, v) :: m, a => if b = a then v else Memory.readByte m a

/-- Write one byte, keeping the canonical form: the value an unlisted byte reads as is not listed. -/
def Memory.writeByte : Memory → Nat → Byte → Memory
  | [], a, v => if v = unlistedByte then [] else [(a, v)]
  | (b, w) :: m, a, v =>
    if a < b then
      if v = unlistedByte then (b, w) :: m else (a, v) :: (b, w) :: m
    else if a = b then
      if v = unlistedByte then m else (a, v) :: m
    else (b, w) :: Memory.writeByte m a v

/-- Byte lane `k` of a word, bits [8k+7:8k]; it is the byte at address + k (20_memory.md R64). -/
def lane (v : Word) (k : Nat) : Byte := v.extractLsb' (8 * k) 8

/-- Read the 64-bit word at a byte address, little-endian (20_memory.md R64). -/
def Memory.readWord (m : Memory) (a : Nat) : Word :=
  m.readByte (a + 7) ++ m.readByte (a + 6) ++ m.readByte (a + 5) ++ m.readByte (a + 4)
    ++ m.readByte (a + 3) ++ m.readByte (a + 2) ++ m.readByte (a + 1) ++ m.readByte a

/-- Write the 64-bit word at a byte address, little-endian (20_memory.md R64). -/
def Memory.writeWord (m : Memory) (a : Nat) (v : Word) : Memory :=
  [0, 1, 2, 3, 4, 5, 6, 7].foldl (fun m k => m.writeByte (a + k) (lane v k)) m

/-- Every listed address is above `lo`, and the addresses rise strictly. -/
def Memory.risesFrom : Option Nat → Memory → Bool
  | _, [] => true
  | lo, (a, _) :: m => (match lo with | none => true | some l => decide (l < a)) && Memory.risesFrom (some a) m

/-- The canonical form: addresses strictly rising, and no entry equal to what an unlisted byte reads as. -/
def Memory.wf (m : Memory) : Bool :=
  Memory.risesFrom none m && m.all (fun c => c.2 != unlistedByte)

/-! ### The six windows (10_state.md R41, 20_memory.md R60) -/

/-- The memories of 10_state.md R41. -/
inductive Bank where
  | inBank
  | outBank
  | twnFwd
  | twnInv
  | twfFwd
  | twfInv
  deriving DecidableEq, Repr

/-- All six, in address order. -/
def allBanks : List Bank := [.inBank, .outBank, .twnFwd, .twnInv, .twfFwd, .twfInv]

/-- The bus address of word 0 (20_memory.md R60). -/
def bankBase : Bank → Nat
  | .inBank  => 0x100000
  | .outBank => 0x200000
  | .twnFwd  => 0x300000
  | .twnInv  => 0x380000
  | .twfFwd  => 0x400000
  | .twfInv  => 0x500000

/-- How many words are valid in this build (10_state.md R41, 20_memory.md R60). -/
def bankWords (c : Config) : Bank → Nat
  | .inBank  => 2 * c.nMax
  | .outBank => 2 * c.nMax
  | .twnFwd  => c.nMax
  | .twnInv  => c.nMax
  | .twfFwd  => 2 * c.nMax
  | .twfInv  => 2 * c.nMax

/-- The bus address of word `k` (20_memory.md R60). -/
def bankAddr (b : Bank) (k : Nat) : Nat := bankBase b + 8 * k

/-- A byte address inside the valid words of a window. -/
def inWindow (c : Config) (b : Bank) (a : Nat) : Bool :=
  decide (bankBase b ≤ a) && decide (a < bankBase b + 8 * bankWords c b)

/-- A byte address inside the valid words of some window. -/
def mappedByte (c : Config) (a : Nat) : Bool := allBanks.any (fun b => inWindow c b a)

/-- `BankRead(B, k)` (00_scope.md section 6). A word the build does not have reads 0; no command reads one from a state
that a run reaches (log entry 7). -/
def bankRead (b : Bank) (k : Nat) (s : State) : Word :=
  if k < bankWords s.config b then s.mem.readWord (bankAddr b k) else 0

/-- `BankWrite(B, k, v)` (00_scope.md section 6). A word the build does not have is not written (log entry 7). -/
def bankWrite (b : Bank) (k : Nat) (v : Word) (s : State) : State :=
  if k < bankWords s.config b then { s with mem := s.mem.writeWord (bankAddr b k) v } else s

/-- Write a vector of words to a memory from word `k` on. -/
def bankWriteFrom (b : Bank) : Nat → List Word → State → State
  | _, [], s => s
  | k, v :: vs, s => bankWriteFrom b (k + 1) vs (bankWrite b k v s)

/-- Write a vector of words to words 0, 1, 2, … of a memory. -/
def bankWriteAll (b : Bank) (vs : List Word) (s : State) : State := bankWriteFrom b 0 vs s

/-! ### Registers -/

/-- The three result registers at once (10_state.md R33). -/
def setResults (r0 r1 r2 : Word) (s : State) : State := { s with res0 := r0, res1 := r1, res2 := r2 }

/-- The first step of every utility command: RES0, RES1, RES2 become 0 (41_number_theory.md R120). -/
def clearResults (s : State) : State := setResults 0 0 0 s

/-- The NTT context with no engine: NTT_READY = 0 and the five registers 0 (43_transform_engine.md R180, R190). -/
def releaseNtt (s : State) : State :=
  { s with status := { s.status with nttReady := false }, ntt := NttContext.cleared }

/-- The FFT context with no engine: FFT_READY = 0 and the three registers 0 (43_transform_engine.md R185, R191). -/
def releaseFft (s : State) : State :=
  { s with status := { s.status with fftReady := false }, fft := FftContext.cleared }

/-- The NTT context becomes a usable engine (43_transform_engine.md R180). -/
def installNtt (c : NttContext) (s : State) : State :=
  { s with status := { s.status with nttReady := true }, ntt := c }

/-- The FFT context becomes a usable engine (43_transform_engine.md R185). -/
def installFft (c : FftContext) (s : State) : State :=
  { s with status := { s.status with fftReady := true }, fft := c }

/-- The witness generator's state after draws (10_state.md R43 item 2). -/
def setGen (g : WitnessGen) (s : State) : State := { s with gen := g }

/-! ### The command frame (40_control.md R110 to R112) -/

/-- Acceptance of the command word `c`, one atomic event; IRQ.PEND is not changed (40_control.md R110). -/
def accept (c : Word) (s : State) : State :=
  { s with cmd := c, status := s.status.accepted }

/-- Completion with code `e`, 0 for success, one atomic event (40_control.md R112). -/
def complete (e : BitVec 8) (s : State) : State :=
  { s with status := s.status.completed e, irqPend := true }

/-- `ok`: the body ends without error and the command completes (00_scope.md section 6, 40_control.md R111). -/
def succeed (s : State) : Host.Outcome State Fault Refusal := .next (complete 0 s)

/-- TAKING AN EXCEPTION. `raise E`: the body stops, what it wrote stays written, and the command completes with code E;
nothing is saved, no vector is taken and no mode changes (00_scope.md section 6, 60_exceptions.md R210). -/
def raise (e : ErrorCode) (s : State) : Host.Outcome State Fault Refusal := .next (complete e.code s)

/-- RETURN. The host's acknowledgement, a write of 1 to IRQ bit 0: PEND becomes 0 and nothing is restored
(60_exceptions.md R221, 10_state.md R30). -/
def acknowledge (s : State) : State := { s with irqPend := false }

/-- A CMD write while BUSY: dropped, and OVERRUN becomes 1 (10_state.md R25). -/
def overrun (s : State) : State := { s with status := { s.status with overrun := true } }

/-! ### The two resets (70_reset_and_hazards.md R240, R241) -/

/-- Soft reset: every register and the witness generator state take their reset values, the command in flight is
dropped, the six memories keep their contents (70_reset_and_hazards.md R241, log entry 11). -/
def softReset (s : State) : State :=
  { State.reset with config := s.config, mem := s.mem, schedule := s.schedule, responses := s.responses }

/-- The memories after power-on, from any list of bytes: only bytes the build has, in canonical form
(70_reset_and_hazards.md R242). -/
def powerOnMemory (c : Config) (contents : List Host.Cell) : Memory :=
  contents.foldl (fun m b => if mappedByte c b.1 then Memory.writeByte m b.1 b.2 else m) []

/-- Power-on reset: as the soft reset, and the memories hold their power-on contents (70_reset_and_hazards.md R240). -/
def powerOnReset (contents : List Host.Cell) (s : State) : State :=
  { softReset s with mem := powerOnMemory s.config contents }

end Sys2Proof.Machine
end

