-- ==== Sys2Proof/Machine/Bus.lean ====
section
/-! DEFINITION. The host bus slave port: the register map, the address map, and what a Read and a Write do
(10_state.md, 20_memory.md). -/

namespace Sys2Proof.Machine

/-- The registers of the register page (10_state.md R20). -/
inductive Reg where
  | id | cmd | status | ctrl | irq | mrTrials | mrSeed | opa | opb | opc | len | res0 | res1 | res2
  | nttQ | nttN | nttPsi | nttPsiInv | nttNInv | fftN | fftWRe | fftWIm
  deriving DecidableEq, Repr

/-- Every register, in offset order. -/
def allRegs : List Reg :=
  [.id, .cmd, .status, .ctrl, .irq, .mrTrials, .mrSeed, .opa, .opb, .opc, .len, .res0, .res1, .res2,
   .nttQ, .nttN, .nttPsi, .nttPsiInv, .nttNInv, .fftN, .fftWRe, .fftWIm]

/-- The register map, column "offset" (10_state.md R20). -/
def regOffset : Reg → Nat
  | .id => 0x000
  | .cmd => 0x008
  | .status => 0x010
  | .ctrl => 0x018
  | .irq => 0x020
  | .mrTrials => 0x028
  | .mrSeed => 0x030
  | .opa => 0x038
  | .opb => 0x040
  | .opc => 0x048
  | .len => 0x050
  | .res0 => 0x058
  | .res1 => 0x060
  | .res2 => 0x068
  | .nttQ => 0x070
  | .nttN => 0x078
  | .nttPsi => 0x080
  | .nttPsiInv => 0x088
  | .nttNInv => 0x090
  | .fftN => 0x098
  | .fftWRe => 0x0A0
  | .fftWIm => 0x0A8

/-- The register map, column "Blk": a Read is blocked while BUSY (10_state.md R20, 20_memory.md R66). CMD is blocked for
writes only, and in its own way (R25). -/
def regBlocked : Reg → Bool
  | .id | .cmd | .status | .ctrl | .irq => false
  | _ => true

/-- Where an aligned address leads (20_memory.md R60). -/
inductive Location where
  | register (r : Reg)
  | reserved
  | word (b : Bank) (k : Nat)
  | unmapped
  deriving DecidableEq, Repr

/-- The address map (20_memory.md R60, 10_state.md R36). -/
def locate (c : Config) (a : Nat) : Location :=
  if a < 0x010000 then
    match allRegs.find? (fun r => regOffset r == a) with
    | some r => .register r
    | none => .reserved
  else
    match allBanks.find? (fun b => inWindow c b a) with
    | some b => .word b ((a - bankBase b) / 8)
    | none => .unmapped

/-- The ID word: MAGIC, MAJOR, MINOR, LOG_NMAX, FEATURES (10_state.md R24). -/
def idWord (c : Config) : Word :=
  (0x4E545442 : BitVec 32) ++ (0x01 : BitVec 8) ++ (0x00 : BitVec 8) ++ BitVec.ofNat 8 c.logNMax ++ (0x03 : BitVec 8)

/-- The value a register reads as (10_state.md R24 to R35). -/
def readReg (s : State) : Reg → Word
  | .id => idWord s.config
  | .cmd => s.cmd
  | .status => s.status.word
  | .ctrl => ctrlWord s
  | .irq => irqWord s
  | .mrTrials => s.mrTrials.setWidth 64
  | .mrSeed => s.mrSeed
  | .opa => s.opa
  | .opb => s.opb
  | .opc => s.opc
  | .len => s.len
  | .res0 => s.res0
  | .res1 => s.res1
  | .res2 => s.res2
  | .nttQ => s.ntt.q
  | .nttN => s.ntt.n
  | .nttPsi => s.ntt.psi
  | .nttPsiInv => s.ntt.psiInv
  | .nttNInv => s.ntt.nInv
  | .fftN => s.fft.n
  | .fftWRe => s.fft.wRe
  | .fftWIm => s.fft.wIm

/-- A write to CTRL: bit 1 applies the soft reset, whatever bit 0 is; else bit 0 is IRQ_EN (10_state.md R27). -/
def writeCtrl (v : Word) (s : State) : State :=
  if v.getLsbD 1 then softReset s else { s with irqEn := v.getLsbD 0 }

/-- A write to IRQ: 1 in bit 0 clears PEND (10_state.md R30). -/
def writeIrq (v : Word) (s : State) : State := if v.getLsbD 0 then acknowledge s else s

/-- A write to MR_TRIALS: bits [31:0], unless they are 0 (10_state.md R28). -/
def writeMrTrials (v : Word) (s : State) : State :=
  if v.setWidth 32 = 0 then s else { s with mrTrials := v.setWidth 32 }

/-- A write to MR_SEED stores the value and reseeds the witness generator (10_state.md R29). -/
def writeMrSeed (v : Word) (s : State) : State := { s with mrSeed := v, gen := WitnessGen.seeded v }

/-- The effect of a write that is not blocked; a read-only register ignores it (10_state.md R24 to R35). -/
def writeReg (v : Word) (s : State) : Reg → State
  | .cmd => accept v s
  | .ctrl => writeCtrl v s
  | .irq => writeIrq v s
  | .mrTrials => writeMrTrials v s
  | .mrSeed => writeMrSeed v s
  | .opa => { s with opa := v }
  | .opb => { s with opb := v }
  | .opc => { s with opc := v }
  | .len => { s with len := v }
  | .id | .status | .res0 | .res1 | .res2 | .nttQ | .nttN | .nttPsi | .nttPsiInv | .nttNInv | .fftN | .fftWRe
  | .fftWIm => s

/-- The answer to a Read (20_memory.md R61 to R68); an ERROR carries data 0 (R62). The form of the access is checked
first (R63), then the address (R68), then BUSY (R66). -/
def readResponse (s : State) (t : Transaction) : Response :=
  if t.legal = false then .read .error 0
  else
    match locate s.config t.addr.toNat with
    | .unmapped => .read .error 0
    | .register r => if s.status.busy && regBlocked r then .read .error 0 else .read .okay (readReg s r)
    | .reserved => if s.status.busy then .read .error 0 else .read .okay 0
    | .word b k => if s.status.busy then .read .error 0 else .read .okay (bankRead b k s)

/-- The host may write IN and OUT only; a write to a twiddle table is ignored (20_memory.md R67). -/
def hostWritable : Bank → Bool
  | .inBank | .outBank => true
  | .twnFwd | .twnInv | .twfFwd | .twfInv => false

/-- The effect of a Write of `data` and its answer (20_memory.md R61 to R68, 10_state.md R25). -/
def writeEffect (s : State) (t : Transaction) (data : Word) : State × Response :=
  if t.legal = false then (s, .write .error)
  else
    match locate s.config t.addr.toNat with
    | .unmapped => (s, .write .error)
    | .register .cmd => if s.status.busy then (overrun s, .write .error) else (writeReg data s .cmd, .write .okay)
    | .register r => if s.status.busy && regBlocked r then (s, .write .error) else (writeReg data s r, .write .okay)
    | .reserved => if s.status.busy then (s, .write .error) else (s, .write .okay)
    | .word b k =>
      if s.status.busy then (s, .write .error)
      else if hostWritable b then (bankWrite b k data s, .write .okay)
      else (s, .write .okay)

/-- Record an answer on the bus (log entry 3). -/
def respond (r : Response) (s : State) : State := { s with responses := r :: s.responses }

/-- Perform one host transaction, one atomic event (20_memory.md R61, R70). A Read changes no state but for the answer
it leaves (R65). -/
def serve (t : Transaction) (s : State) : State :=
  match t with
  | .read _ _ => respond (readResponse s t) s
  | .write _ _ data => respond (writeEffect s t data).2 (writeEffect s t data).1

end Sys2Proof.Machine
end

