-- ==== Sys2Proof/Machine/Operands.lean ====
section
/-! DEFINITION. Every operand form: a register as sint or uint, a bank word raw, as a signed integer or as a binary64
pattern, and the narrowing of results (00_scope.md section 6, 30_encoding.md R94). -/

namespace Sys2Proof.Machine

/-- `uint(v)` (00_scope.md section 6). -/
def uint (v : Word) : Nat := v.toNat

/-- `sint(v)`, two's complement (00_scope.md section 6). -/
def sint (v : Word) : Int := if v.getLsbD 63 then (v.toNat : Int) - 2 ^ 64 else v.toNat

/-- `bits64(x)` of an integer (00_scope.md section 6). -/
def bits64 (x : Int) : Word := BitVec.ofInt 64 x

/-- `bits64(x)` of a natural number (00_scope.md section 6). -/
def natBits64 (x : Nat) : Word := BitVec.ofNat 64 x

/-- A complex element: two binary64 words, real part first (00_scope.md R8). -/
structure Cplx where
  re : Word
  im : Word
  deriving DecidableEq, Repr, Inhabited

/-- Words 0 .. n - 1 of a memory, raw (42_bit_reversal.md R163). -/
def loadWords (b : Bank) (n : Nat) (s : State) : List Word :=
  (List.range n).map (fun i => bankRead b i s)

/-- Words 0 .. n - 1 of a twiddle table, each as uint (43_transform_engine.md R182). -/
def loadUints (b : Bank) (n : Nat) (s : State) : List Nat :=
  (List.range n).map (fun i => uint (bankRead b i s))

/-- The NTT input load: each IN word as a signed integer, reduced modulo q (43_transform_engine.md R173). -/
def loadResidues (q n : Nat) (s : State) : List Nat :=
  (List.range n).map (fun i => (sint (bankRead .inBank i s) % (q : Int)).toNat)

/-- Elements 0 .. n - 1 of a memory of complex values: words 2i and 2i + 1 (10_state.md R41). -/
def loadPairs (b : Bank) (n : Nat) (s : State) : List Cplx :=
  (List.range n).map (fun i => ⟨bankRead b (2 * i) s, bankRead b (2 * i + 1) s⟩)

/-- The words of a vector of complex values: 2i is Re and 2i + 1 is Im (10_state.md R41). -/
def pairWords (xs : List Cplx) : List Word := xs.flatMap (fun x => [x.re, x.im])

/-- The words of a vector of residues. -/
def uintWords (xs : List Nat) : List Word := xs.map natBits64

end Sys2Proof.Machine
end

