-- ==== Sys2Proof/Machine/Arith.lean ====
section
/-! DEFINITION. The core functions of the number-theory unit (41_number_theory.md) and of the bit-reversal unit
(42_bit_reversal.md). Every value is a mathematical integer: nothing wraps (00_scope.md R4). A `while` of the spec is a
recursion on a fuel that is at least the number of its turns (log entry 13). -/

namespace Sys2Proof.Machine

/-! ### Modular exponentiation (41_number_theory.md R132) -/

/-- The loop of PowCore, at most `fuel` turns. -/
def powLoop (m : Nat) : Nat → Nat → Nat → Nat → Nat
  | 0, r, _, _ => r
  | fuel + 1, r, x, k =>
    if k = 0 then r
    else powLoop m fuel (if k % 2 = 1 then r * x % m else r) (x * x % m) (k / 2)

/-- `PowCore(b, e, m)` (41_number_theory.md R132). -/
def powCore (b : Int) (e m : Nat) : Nat := powLoop m e (1 % m) (b % (m : Int)).toNat e

/-! ### Power of two (41_number_theory.md R134) -/

/-- The formula of R134 on a non-negative integer: x > 1 and (x AND (x - 1)) = 0 (42_bit_reversal.md R163). -/
def isPow2 (x : Nat) : Bool := decide (1 < x) && (x &&& (x - 1)) == 0

/-- `IsPow2(x)` for a signed x: false unless x > 1 (41_number_theory.md R134). -/
def isPow2Int (x : Int) : Bool := decide (1 < x) && isPow2 x.toNat

/-! ### Primality (41_number_theory.md R121) -/

/-- Halve while even, at most `fuel` times. -/
def oddPart : Nat → Nat → Nat
  | 0, d => d
  | fuel + 1, d => if d % 2 = 0 then oddPart fuel (d / 2) else d

/-- The squaring loop of one trial: from (y, e), the pair it ends with. -/
def squareLoop (x : Nat) : Nat → Nat → Nat → Nat × Nat
  | 0, y, e => (y, e)
  | fuel + 1, y, e =>
    if e ≠ x - 1 ∧ y ≠ 1 ∧ y ≠ x - 1 then squareLoop x fuel (y * y % x) (2 * e) else (y, e)

/-- One trial with witness `a`: false when it shows x composite (41_number_theory.md R121). -/
def trialPasses (x a : Nat) : Bool :=
  let d := oddPart (x - 1) (x - 1)
  let r := squareLoop x x (powCore a d x) d
  !(decide (r.1 ≠ x - 1) && decide (r.2 % 2 = 0))

/-- The generator's state after one more draw for x: the history grows by one (10_state.md R29, R43 item 2). -/
def advanceGen (g : WitnessGen) (x : Nat) : WitnessGen :=
  match g.drawn with
  | [] => { g with drawn := [(x, 1)] }
  | (y, c) :: rest =>
    if y = x then { g with drawn := (y, c + 1) :: rest } else { g with drawn := (x, 1) :: (y, c) :: rest }

/-- `DrawWitness(x)`: a witness in [1, x - 1], for x ≥ 2, and the advanced generator (41_number_theory.md R121). The
witness is the free value of log entry 5. -/
def drawWitness (g : WitnessGen) (x : Nat) : Nat × WitnessGen :=
  (1 + Config.witness g x % (x - 1), advanceGen g x)

/-- The trials: the loop stops at the first one that shows x composite (41_number_theory.md R121). -/
def trialLoop (x : Nat) : Nat → WitnessGen → Bool × WitnessGen
  | 0, g => (true, g)
  | t + 1, g =>
    let (a, g') := drawWitness g x
    if trialPasses x a then trialLoop x t g' else (false, g')

/-- `IsPrimeCore(x)` with `trials` = MR_TRIALS, and the generator's state after its draws (41_number_theory.md R121). -/
def isPrimeCore (trials : Nat) (x : Int) (g : WitnessGen) : Bool × WitnessGen :=
  if x < 2 then (false, g)
  else if x = 2 ∨ x = 3 then (true, g)
  else if x % 2 = 0 then (false, g)
  else trialLoop x.toNat trials g

/-! ### Primitive roots (41_number_theory.md R123, R124) -/

/-- Divide `p` out of `x` while it divides, at most `fuel` times. -/
def stripFactor (p : Nat) : Nat → Nat → Nat
  | 0, x => x
  | fuel + 1, x => if x % p = 0 then stripFactor p fuel (x / p) else x

/-- Trial division of `x` from `p` on: while p² ≤ x; the cofactor left at the end is added when above 1. -/
def factorsFrom : Nat → Nat → Nat → List Nat
  | 0, _, _ => []
  | fuel + 1, p, x =>
    if p * p ≤ x then
      if x % p = 0 then p :: factorsFrom fuel (p + 1) (stripFactor p x x)
      else factorsFrom fuel (p + 1) x
    else if 1 < x then [x] else []

/-- `PrimeFactors(x)`, x ≥ 1: the distinct primes that divide x (41_number_theory.md R123). -/
def primeFactors (x : Nat) : List Nat := factorsFrom (x + 1) 2 x

/-- The generator test of one candidate: r^((m - 1) div f) mod m ≠ 1 for every f (41_number_theory.md R124). -/
def candidatePasses (m : Nat) (fs : List Nat) (r : Nat) : Bool :=
  fs.all (fun f => powCore r ((m - 1) / f) m != 1)

/-- The candidates r, r + 1, …, `n` of them, in ascending order. -/
def searchFrom (m : Nat) (fs : List Nat) : Nat → Nat → Option Nat
  | 0, _ => none
  | n + 1, r => if candidatePasses m fs r then some r else searchFrom m fs n (r + 1)

/-- `PrimRootSearch(m)`, m ≥ 2: the candidates are 2 .. m - 1 (41_number_theory.md R124). -/
def primRootSearch (m : Nat) : Except ErrorCode Nat :=
  match searchFrom m (primeFactors (m - 1)) (m - 2) 2 with
  | some r => .ok r
  | none => .error .primitiveRootNotFound

/-- `RootOfUnityCore(m, k)`, m ≥ 2 and any integer k (41_number_theory.md R126, log entry 16). -/
def rootOfUnityCore (m : Nat) (k : Int) : Except ErrorCode Nat :=
  if k < 1 ∨ ((m : Int) - 1) % k ≠ 0 then .error .invalidOrder
  else
    match primRootSearch m with
    | .error e => .error e
    | .ok g =>
      let c := powCore g ((m - 1) / k.toNat) m
      if c = 1 then .error .rootDegenerate else .ok c

/-! ### Extended Euclid and the modular inverse (41_number_theory.md R128, R130) -/

/-- The pairs of the Euclid loop, (r0, r1), (s0, s1), (t0, t1). -/
structure EgcdRow where
  r0 : Nat
  r1 : Nat
  s0 : Int
  s1 : Int
  t0 : Int
  t1 : Int
  deriving DecidableEq, Repr

/-- The loop of EgcdCore, at most `fuel` turns (41_number_theory.md R128). -/
def egcdLoop : Nat → EgcdRow → EgcdRow
  | 0, w => w
  | fuel + 1, w =>
    if w.r1 = 0 then w
    else
      let qt := w.r0 / w.r1
      egcdLoop fuel ⟨w.r1, w.r0 - qt * w.r1, w.s1, w.s0 - qt * w.s1, w.t1, w.t0 - qt * w.t1⟩

/-- `EgcdCore(a, b)`: (g, x, y) (41_number_theory.md R128). -/
def egcdCore (a b : Nat) : Nat × Int × Int :=
  let w := egcdLoop (b + 1) ⟨a, b, 1, 0, 0, 1⟩
  (w.r0, w.s0, w.t0)

/-- `ModInvCore(a, m)`, any integer a and m ≥ 1 (41_number_theory.md R130). -/
def modInvCore (a : Int) (m : Nat) : Except ErrorCode Nat :=
  let (g, x, _) := egcdCore (a % (m : Int)).toNat m
  if g ≠ 1 then .error .invalidGcd else .ok (x % (m : Int)).toNat

/-! ### Bit reversal (42_bit_reversal.md R160, R162) -/

/-- `brev(v, w)`, the sum of v[k] · 2^(w - 1 - k) over k < w (42_bit_reversal.md R160). -/
def brev (v : Nat) : Nat → Nat
  | 0 => 0
  | w + 1 => 2 * brev v w + (v.testBit w).toNat

/-- `BitRevPermute(X, len)` on whole elements, len = the length of X (42_bit_reversal.md R162). -/
def bitRevPermute {α : Type} [Inhabited α] (xs : List α) : List α :=
  (List.range xs.length).map (fun i => xs.getD (brev i (Nat.log2 xs.length)) default)

end Sys2Proof.Machine
end

