-- ==== Sys2Proof/Machine/BitReversal.lean ====
section
/-! DEFINITION. The commands of the bit-reversal unit (42_bit_reversal.md). -/

namespace Sys2Proof.Machine

/-- BITREVN, a utility command (42_bit_reversal.md R161, 41_number_theory.md R120). -/
def execBitrevn (s : State) : Host.Outcome State Fault Refusal :=
  let s1 := clearResults s
  let w := uint s.opb
  if 64 < w then raise .operandRange s1
  else succeed (setResults (natBits64 (brev (uint s.opa) w)) 0 0 s1)

/-- The two checks of a vector bit reversal, then its body; LEN is read as uint (42_bit_reversal.md R163). -/
def withBitrevLength (s : State) (body : Nat → State) : Host.Outcome State Fault Refusal :=
  let len := uint s.len
  if isPow2 len = false then raise .lengthNotPowerOfTwo s
  else if s.config.nMax < len then raise .capacity s
  else succeed (body len)

/-- BITREV.W: 1-word elements (42_bit_reversal.md R163). -/
def execBitrevW (s : State) : Host.Outcome State Fault Refusal :=
  withBitrevLength s (fun len => bankWriteAll .outBank (bitRevPermute (loadWords .inBank len s)) s)

/-- BITREV.C: 2-word elements, moved whole (42_bit_reversal.md R164). -/
def execBitrevC (s : State) : Host.Outcome State Fault Refusal :=
  withBitrevLength s (fun len => bankWriteAll .outBank (pairWords (bitRevPermute (loadPairs .inBank len s))) s)

end Sys2Proof.Machine
end

