-- ==== Sys2Proof/Machine/Control.lean ====
section
/-! DEFINITION. The command with no data effect (40_control.md). -/

namespace Sys2Proof.Machine

/-- NOP (40_control.md R113). -/
def execNop (s : State) : Host.Outcome State Fault Refusal := succeed s

end Sys2Proof.Machine
end

