-- ==== Sys2Proof/Machine/Binary64.lean ====
section
/-! DEFINITION. Binary64 arithmetic on bit patterns: add, subtract, multiply, divide, each rounded once to nearest with
ties to even, subnormals kept, every NaN result canonical, no flags (43_transform_engine.md R176). The IEEE 754 format
itself is general knowledge, not in the spec's source (log entry 14). -/

namespace Sys2Proof.Machine

/-- The value of a binary64 pattern: a NaN, an infinity, or (-1)^neg · sig · 2^exp. -/
inductive F64 where
  | nan
  | inf (neg : Bool)
  | fin (neg : Bool) (sig : Nat) (exp : Int)
  deriving DecidableEq, Repr

/-- The canonical quiet NaN (43_transform_engine.md R176). -/
def canonicalNaN : Word := 0x7FF8000000000000

/-- The sign bit in place. -/
def signBit (neg : Bool) : Nat := if neg then 2 ^ 63 else 0

/-- The infinity of a sign. -/
def infinityWord (neg : Bool) : Word := natBits64 (signBit neg + 0x7FF * 2 ^ 52)

/-- The zero of a sign. -/
def zeroWord (neg : Bool) : Word := natBits64 (signBit neg)

/-- `f64(b)`: read a pattern (00_scope.md section 6). -/
def f64 (b : Word) : F64 :=
  let neg := b.toNat.testBit 63
  let e : Nat := b.toNat / 2 ^ 52 % 2 ^ 11
  let f : Nat := b.toNat % 2 ^ 52
  if e = 0x7FF then (if f = 0 then .inf neg else .nan)
  else if e = 0 then .fin neg f (-1074)
  else .fin neg (2 ^ 52 + f) ((e : Int) - 1075)

/-- Round `m / 2^t` to an integer, to nearest, ties to even. -/
def roundShift (m t : Nat) : Nat :=
  let hi := m / 2 ^ t
  let lo := m % 2 ^ t
  if 2 ^ t < 2 * lo ∨ (2 ^ t = 2 * lo ∧ hi % 2 = 1) then hi + 1 else hi

/-- `b64(RN((-1)^neg · m · 2^e))` (00_scope.md section 6): the exponent of the last place is the larger of the one that
leaves 53 bits and -1074; a magnitude that rounds past the largest finite one is an infinity. -/
def roundPack (neg : Bool) (m : Nat) (e : Int) : Word :=
  if m = 0 then zeroWord neg
  else
    let q : Int := max (e + (Nat.log2 m + 1 : Nat) - 53) (-1074)
    let sig := if q ≤ e then m * 2 ^ (e - q).toNat else roundShift m (q - e).toNat
    let mag := (q + 1074).toNat * 2 ^ 52 + sig
    if 0x7FF * 2 ^ 52 ≤ mag then infinityWord neg else natBits64 (signBit neg + mag)

/-- The signed integer of a sign and a magnitude. -/
def signedInt (neg : Bool) (m : Nat) : Int := if neg then -(m : Int) else m

/-- The negative of a value, by its sign. -/
def F64.neg : F64 → F64
  | .nan => .nan
  | .inf s => .inf (!s)
  | .fin s m e => .fin (!s) m e

/-- The exact sum, rounded once. A zero sum is -0 only when both operands are negative zeros (43_transform_engine.md
R176: x ⊖ x = +0, and (-0) ⊕ (-0) = -0). -/
def addF64 : F64 → F64 → Word
  | .nan, _ => canonicalNaN
  | _, .nan => canonicalNaN
  | .inf s, .inf t => if s = t then infinityWord s else canonicalNaN
  | .inf s, .fin _ _ _ => infinityWord s
  | .fin _ _ _, .inf t => infinityWord t
  | .fin s m e, .fin t n f =>
    let lo := min e f
    let sum := signedInt s (m * 2 ^ (e - lo).toNat) + signedInt t (n * 2 ^ (f - lo).toNat)
    if sum = 0 then zeroWord (s && t) else roundPack (decide (sum < 0)) sum.natAbs lo

/-- The exact product, rounded once; 0 ⊗ ∞ is NaN (43_transform_engine.md R176). -/
def mulF64 : F64 → F64 → Word
  | .nan, _ => canonicalNaN
  | _, .nan => canonicalNaN
  | .inf s, .inf t => infinityWord (s != t)
  | .inf s, .fin t n _ => if n = 0 then canonicalNaN else infinityWord (s != t)
  | .fin s m _, .inf t => if m = 0 then canonicalNaN else infinityWord (s != t)
  | .fin s m e, .fin t n f => roundPack (s != t) (m * n) (e + f)

/-- The exact quotient, rounded once: the quotient to at least 64 bits, with one more bit that is set when a remainder
is left, rounds as the exact quotient does. -/
def divF64 : F64 → F64 → Word
  | .nan, _ => canonicalNaN
  | _, .nan => canonicalNaN
  | .inf _, .inf _ => canonicalNaN
  | .inf s, .fin t _ _ => infinityWord (s != t)
  | .fin s _ _, .inf t => zeroWord (s != t)
  | .fin s m e, .fin t n f =>
    if n = 0 then (if m = 0 then canonicalNaN else infinityWord (s != t))
    else
      let num := m * 2 ^ 128
      roundPack (s != t) (2 * (num / n) + (if num % n = 0 then 0 else 1)) (e - f - 129)

/-- `x ⊕ y` (43_transform_engine.md R176). -/
def fadd (x y : Word) : Word := addF64 (f64 x) (f64 y)

/-- `x ⊖ y` (43_transform_engine.md R176). -/
def fsub (x y : Word) : Word := addF64 (f64 x) (f64 y).neg

/-- `x ⊗ y` (43_transform_engine.md R176). -/
def fmul (x y : Word) : Word := mulF64 (f64 x) (f64 y)

/-- `x ⊘ y` (43_transform_engine.md R176). -/
def fdiv (x y : Word) : Word := divF64 (f64 x) (f64 y)

/-- The binary64 pattern of a natural number, rounded (exact below 2^53). -/
def natF64 (n : Nat) : Word := roundPack false n 0

/-- Complex multiplication: four products and two sums (43_transform_engine.md R177). -/
def cmul (a b : Cplx) : Cplx :=
  ⟨fsub (fmul a.re b.re) (fmul a.im b.im), fadd (fmul a.re b.im) (fmul a.im b.re)⟩

end Sys2Proof.Machine
end

