-- ==== Sys2Proof/Machine/Network.lean ====
section
/-! DEFINITION. The butterfly network, its two butterflies and twiddle indices, the twiddle generators and the FFT root
ROM (43_transform_engine.md R170 to R181). -/

namespace Sys2Proof.Machine

/-- One butterfly, in place, on elements `a` and `b` with twiddle `w` (43_transform_engine.md R170). -/
def butterflyAt {α ω : Type} (bf : α → α → ω → α × α) (w : ω) (a b : Nat) (xs : List α) : List α :=
  match xs[a]?, xs[b]? with
  | some e, some o =>
    let r := bf e o w
    (xs.set a r.1).set b r.2
  | _, _ => xs

/-- One group of a stage: its `h` butterflies, j ascending, from base `k` (43_transform_engine.md R170). -/
def groupPass {α ω : Type} (bf : α → α → ω → α × α) (tw : Nat → ω) (h k : Nat) (xs : List α) : List α :=
  (List.range h).foldl (fun ys j => butterflyAt bf (tw j) (k + j) (k + j + h) ys) xs

/-- One stage with half-group size h: the groups at 0, 2h, 4h, …, n - 2h (43_transform_engine.md R170). -/
def stagePass {α ω : Type} (bf : α → α → ω → α × α) (tw : Nat → ω) (n h : Nat) (xs : List α) : List α :=
  (List.range (n / (2 * h))).foldl (fun ys g => groupPass bf tw h (2 * h * g) ys) xs

/-- `Network(X, n, W, tidx, BF)`, n the length of X: the bit-reversal pre-pass, then stages 0 .. log2 n - 1
(43_transform_engine.md R170). -/
def network {α ω : Type} [Inhabited α] [Inhabited ω] (bf : α → α → ω → α × α) (tidx : Nat → Nat → Nat → Nat)
    (ws : List ω) (xs : List α) : List α :=
  (List.range (Nat.log2 xs.length)).foldl
    (fun ys s => stagePass bf (fun j => ws.getD (tidx j s xs.length) default) xs.length (2 ^ s) ys)
    (bitRevPermute xs)

/-- The NTT butterfly modulo q (43_transform_engine.md R171). -/
def bfNtt (q : Nat) (e o w : Nat) : Nat × Nat :=
  let t := w * o % q
  ((e + t) % q, (((e : Int) - t) % (q : Int)).toNat)

/-- The NTT twiddle index j · (n / 2^s) (43_transform_engine.md R172, 90_conflicts.md C1). -/
def tidxNtt (j s n : Nat) : Nat := j * (n / 2 ^ s)

/-- The FFT butterfly (43_transform_engine.md R174). -/
def bfFft (e o w : Cplx) : Cplx × Cplx :=
  let t := cmul w o
  (⟨fadd e.re t.re, fadd e.im t.im⟩, ⟨fsub e.re t.re, fsub e.im t.im⟩)

/-- The FFT twiddle index j · (n / 2^(s+1)) (43_transform_engine.md R175). -/
def tidxFft (j s n : Nat) : Nat := j * (n / 2 ^ (s + 1))

/-- NTT twiddle generation: t, t·ψ, t·ψ², … modulo q, `n` of them (43_transform_engine.md R179). -/
def nttTwiddlesFrom (q psi : Nat) : Nat → Nat → List Nat
  | 0, _ => []
  | n + 1, t => t :: nttTwiddlesFrom q psi n (t * psi % q)

/-- The table of ψ: the first entry is 1 mod q (43_transform_engine.md R179). -/
def nttTwiddles (q psi n : Nat) : List Nat := nttTwiddlesFrom q psi n (1 % q)

/-- FFT twiddle generation: t, cmul(t, w), … (43_transform_engine.md R181). -/
def fftTwiddlesFrom (w : Cplx) : Nat → Cplx → List Cplx
  | 0, _ => []
  | n + 1, t => t :: fftTwiddlesFrom w n (cmul t w)

/-- The table of a root: the first entry is (+1.0, +0.0) (43_transform_engine.md R181). -/
def fftTwiddles (w : Cplx) (n : Nat) : List Cplx := fftTwiddlesFrom w n ⟨0x3FF0000000000000, 0x0000000000000000⟩

/-- One ROM entry: the shared real part, and the two imaginary parts. -/
structure RomEntry where
  re    : Word
  fwdIm : Word
  invIm : Word
  deriving DecidableEq, Repr, Inhabited

/-- The FFT root ROM, entries L = 1 .. 16 (43_transform_engine.md R178, log entry 15). -/
def romTable : List RomEntry :=
  [⟨0xBFF0000000000000, 0x0000000000000000, 0x0000000000000000⟩,
   ⟨0x0000000000000000, 0xBFF0000000000000, 0x3FF0000000000000⟩,
   ⟨0x3FE6A09E667F3BCD, 0xBFE6A09E667F3BCD, 0x3FE6A09E667F3BCD⟩,
   ⟨0x3FED906BCF328D46, 0xBFD87DE2A6AEA963, 0x3FD87DE2A6AEA963⟩,
   ⟨0x3FEF6297CFF75CB0, 0xBFC8F8B83C69A60B, 0x3FC8F8B83C69A60B⟩,
   ⟨0x3FEFD88DA3D12526, 0xBFB917A6BC29B42C, 0x3FB917A6BC29B42C⟩,
   ⟨0x3FEFF621E3796D7E, 0xBFA91F65F10DD814, 0x3FA91F65F10DD814⟩,
   ⟨0x3FEFFD886084CD0D, 0xBF992155F7A3667E, 0x3F992155F7A3667E⟩,
   ⟨0x3FEFFF62169B92DB, 0xBF8921D1FCDEC784, 0x3F8921D1FCDEC784⟩,
   ⟨0x3FEFFFD8858E8A92, 0xBF7921F0FE670071, 0x3F7921F0FE670071⟩,
   ⟨0x3FEFFFF621621D02, 0xBF6921F8BECCA4BA, 0x3F6921F8BECCA4BA⟩,
   ⟨0x3FEFFFFD88586EE6, 0xBF5921FAAEE6472E, 0x3F5921FAAEE6472E⟩,
   ⟨0x3FEFFFFF62161A34, 0xBF4921FB2AECB360, 0x3F4921FB2AECB360⟩,
   ⟨0x3FEFFFFFD8858675, 0xBF3921FB49EE4EA6, 0x3F3921FB49EE4EA6⟩,
   ⟨0x3FEFFFFFF621619C, 0xBF2921FB51AEB57C, 0x3F2921FB51AEB57C⟩,
   ⟨0x3FEFFFFFFD885867, 0xBF1921FB539ECF31, 0x3F1921FB539ECF31⟩]

/-- `ROM_FWD[L]` (43_transform_engine.md R178). -/
def romFwd (l : Nat) : Cplx :=
  let r := romTable.getD (l - 1) default
  ⟨r.re, r.fwdIm⟩

/-- `ROM_INV[L]` (43_transform_engine.md R178). -/
def romInv (l : Nat) : Cplx :=
  let r := romTable.getD (l - 1) default
  ⟨r.re, r.invIm⟩

end Sys2Proof.Machine
end

