-- ==== Sys2Proof/Machine/Fft.lean ====
section
/-! DEFINITION. The commands of the FFT domain (43_transform_engine.md R185, R186, R187, R191). -/

namespace Sys2Proof.Machine

/-- Write both twiddle tables and install the parameters, n = 2^L (43_transform_engine.md R181, R185). -/
def buildFft (n : Nat) (s : State) : State :=
  let l := Nat.log2 n
  installFft { n := natBits64 n, wRe := (romFwd l).re, wIm := (romFwd l).im }
    (bankWriteAll .twfInv (pairWords (fftTwiddles (romInv l) n))
      (bankWriteAll .twfFwd (pairWords (fftTwiddles (romFwd l) n)) s))

/-- FFT.INIT: the old engine is destroyed first (43_transform_engine.md R185). -/
def execFftInit (s : State) : Host.Outcome State Fault Refusal :=
  let s1 := releaseFft s
  let n := sint s.opb
  if isPow2Int n = false then raise .invalidDegree s1
  else if (s.config.nMax : Int) < n then raise .capacity s1
  else succeed (buildFft n.toNat s1)

/-- The two checks of an FFT transform, then its body (43_transform_engine.md R186, R187). -/
def withFftEngine (s : State) (body : State) : Host.Outcome State Fault Refusal :=
  if s.status.fftReady = false then raise .notReady s
  else if uint s.len ≠ uint s.fft.n then raise .invalidLength s
  else succeed body

/-- The output vector of the forward transform: the network on TWF_FWD, with no pre-twist
(43_transform_engine.md R186). -/
def fftForward (n : Nat) (s : State) : List Cplx :=
  network bfFft tidxFft (loadPairs .twfFwd n s) (loadPairs .inBank n s)

/-- The output vector of the inverse transform: the network on TWF_INV, then each component divided by n
(43_transform_engine.md R187). -/
def fftInverse (n : Nat) (s : State) : List Cplx :=
  (network bfFft tidxFft (loadPairs .twfInv n s) (loadPairs .inBank n s)).map
    (fun x => ⟨fdiv x.re (natF64 n), fdiv x.im (natF64 n)⟩)

/-- FFT.FWD (43_transform_engine.md R186). -/
def execFftFwd (s : State) : Host.Outcome State Fault Refusal :=
  withFftEngine s (bankWriteAll .outBank (pairWords (fftForward (uint s.fft.n) s)) s)

/-- FFT.INV (43_transform_engine.md R187). -/
def execFftInv (s : State) : Host.Outcome State Fault Refusal :=
  withFftEngine s (bankWriteAll .outBank (pairWords (fftInverse (uint s.fft.n) s)) s)

/-- FFT.RELEASE (43_transform_engine.md R191). -/
def execFftRelease (s : State) : Host.Outcome State Fault Refusal := succeed (releaseFft s)

end Sys2Proof.Machine
end

