-- ==== Sys2Proof/Machine/NumberTheory.lean ====
section
/-! DEFINITION. The commands of the number-theory unit (41_number_theory.md). Each begins by clearing RES0 to RES2
(R120). -/

namespace Sys2Proof.Machine

/-- `IsPrimeCore` on a signed operand, with MR_TRIALS and the generator of the state (41_number_theory.md R121). -/
def testPrime (x : Int) (s : State) : Bool × WitnessGen := isPrimeCore s.mrTrials.toNat x s.gen

/-- Finish a utility command that computes one natural number, RES1 and RES2 staying 0, or raises
(41_number_theory.md R120). -/
def finishNat (r : Except ErrorCode Nat) (s : State) : Host.Outcome State Fault Refusal :=
  match r with
  | .ok v => succeed (setResults (natBits64 v) 0 0 s)
  | .error e => raise e s

/-- ISPRIME (41_number_theory.md R122). -/
def execIsprime (s : State) : Host.Outcome State Fault Refusal :=
  let r := testPrime (sint s.opa) s
  succeed (setResults (natBits64 r.1.toNat) 0 0 (setGen r.2 (clearResults s)))

/-- PRIMROOT (41_number_theory.md R125). -/
def execPrimroot (s : State) : Host.Outcome State Fault Refusal :=
  let m := sint s.opa
  let r := testPrime m s
  let s1 := setGen r.2 (clearResults s)
  if r.1 = false then raise .notPrime s1 else finishNat (primRootSearch m.toNat) s1

/-- ROOTUNITY (41_number_theory.md R127). -/
def execRootunity (s : State) : Host.Outcome State Fault Refusal :=
  let m := sint s.opa
  let k := sint s.opb
  let r := testPrime m s
  let s1 := setGen r.2 (clearResults s)
  if r.1 = false then raise .notPrime s1 else finishNat (rootOfUnityCore m.toNat k) s1

/-- EGCD (41_number_theory.md R129). -/
def execEgcd (s : State) : Host.Outcome State Fault Refusal :=
  let s1 := clearResults s
  let a := sint s.opa
  let b := sint s.opb
  if a < 0 ∨ b < 0 then raise .operandRange s1
  else
    let (g, x, y) := egcdCore a.toNat b.toNat
    succeed (setResults (natBits64 g) (bits64 x) (bits64 y) s1)

/-- MODINV (41_number_theory.md R131). -/
def execModinv (s : State) : Host.Outcome State Fault Refusal :=
  let s1 := clearResults s
  let a := sint s.opa
  let m := sint s.opb
  if m ≤ 0 then raise .invalidModulus s1 else finishNat (modInvCore a m.toNat) s1

/-- POW: the exponent is checked before the modulus; exponent -1 means the inverse (41_number_theory.md R133). -/
def execPow (s : State) : Host.Outcome State Fault Refusal :=
  let s1 := clearResults s
  let b := sint s.opa
  let e := sint s.opb
  let m := sint s.opc
  if e < -1 then raise .invalidExponent s1
  else if m ≤ 0 then raise .invalidModulus s1
  else if e = -1 then finishNat (modInvCore b m.toNat) s1
  else finishNat (.ok (powCore b e.toNat m.toNat)) s1

/-- ISPOW2 (41_number_theory.md R135). -/
def execIspow2 (s : State) : Host.Outcome State Fault Refusal :=
  succeed (setResults (natBits64 (isPow2Int (sint s.opa)).toNat) 0 0 (clearResults s))

end Sys2Proof.Machine
end

