-- ==== Sys2Proof/Machine/Ntt.lean ====
section
/-! DEFINITION. The commands of the NTT domain (43_transform_engine.md R180, R182, R183, R190). -/

namespace Sys2Proof.Machine

/-- The parameters of an NTT engine for a modulus that passed the primality test: ψ, ψ⁻¹, n⁻¹, or the error of the
first check that fails (43_transform_engine.md R180). -/
def nttParameters (q n : Nat) : Except ErrorCode (Nat × Nat × Nat) :=
  match rootOfUnityCore q (2 * n) with
  | .error e => .error e
  | .ok psi =>
    if powCore psi n q ≠ q - 1 then .error .rootDegenerate
    else
      match modInvCore psi q with
      | .error e => .error e
      | .ok psiInv =>
        match modInvCore n q with
        | .error e => .error e
        | .ok nInv => .ok (psi, psiInv, nInv)

/-- Write both twiddle tables and install the parameters (43_transform_engine.md R179, R180). -/
def buildNtt (q n psi psiInv nInv : Nat) (s : State) : State :=
  installNtt
    { q := natBits64 q, n := natBits64 n, psi := natBits64 psi, psiInv := natBits64 psiInv, nInv := natBits64 nInv }
    (bankWriteAll .twnInv (uintWords (nttTwiddles q psiInv n))
      (bankWriteAll .twnFwd (uintWords (nttTwiddles q psi n)) s))

/-- NTT.INIT: the old engine is destroyed first; the tables are written only after every check
(43_transform_engine.md R180). -/
def execNttInit (s : State) : Host.Outcome State Fault Refusal :=
  let s1 := releaseNtt s
  let q := sint s.opa
  let n := sint s.opb
  if isPow2Int n = false then raise .invalidDegree s1
  else if (s.config.nMax : Int) < n then raise .capacity s1
  else
    let r := testPrime q s
    let s2 := setGen r.2 s1
    if r.1 = false then raise .notPrime s2
    else
      match nttParameters q.toNat n.toNat with
      | .error e => raise e s2
      | .ok (psi, psiInv, nInv) => succeed (buildNtt q.toNat n.toNat psi psiInv nInv s2)

/-- The two checks of an NTT transform, then its body (43_transform_engine.md R182, R183). -/
def withNttEngine (s : State) (body : State) : Host.Outcome State Fault Refusal :=
  if s.status.nttReady = false then raise .notReady s
  else if uint s.len ≠ uint s.ntt.n then raise .invalidLength s
  else succeed body

/-- Multiply a vector, element by element, by a table, modulo q. -/
def scaleBy (q : Nat) (xs ws : List Nat) : List Nat := List.zipWith (fun x w => x * w % q) xs ws

/-- The output vector of the forward transform: pre-twist by ψ^i, then the network on TWN_FWD
(43_transform_engine.md R182). -/
def nttForward (q n : Nat) (s : State) : List Nat :=
  let ws := loadUints .twnFwd n s
  network (bfNtt q) tidxNtt ws (scaleBy q (loadResidues q n s) ws)

/-- The output vector of the inverse transform: the network on TWN_INV, then post-twist by ψ^-i, then the scaling by
n⁻¹ (43_transform_engine.md R183). -/
def nttInverse (q n nInv : Nat) (s : State) : List Nat :=
  let ws := loadUints .twnInv n s
  (scaleBy q (network (bfNtt q) tidxNtt ws (loadResidues q n s)) ws).map (fun c => c * nInv % q)

/-- NTT.FWD (43_transform_engine.md R182). -/
def execNttFwd (s : State) : Host.Outcome State Fault Refusal :=
  withNttEngine s (bankWriteAll .outBank (uintWords (nttForward (uint s.ntt.q) (uint s.ntt.n) s)) s)

/-- NTT.INV (43_transform_engine.md R183). -/
def execNttInv (s : State) : Host.Outcome State Fault Refusal :=
  withNttEngine s
    (bankWriteAll .outBank (uintWords (nttInverse (uint s.ntt.q) (uint s.ntt.n) (uint s.ntt.nInv) s)) s)

/-- NTT.RELEASE (43_transform_engine.md R190). -/
def execNttRelease (s : State) : Host.Outcome State Fault Refusal := succeed (releaseNtt s)

end Sys2Proof.Machine
end

