-- ==== Sys2Proof/Machine/Dispatch.lean ====
section
/-! DEFINITION. The dispatch of a decoded command to its meaning (40_control.md R111): one arm per constructor. -/

namespace Sys2Proof.Machine

-- The body of the command's rule, with its completion (40_control.md R111, R112).
def exec (i : Instr) (s : State) : Host.Outcome State Fault Refusal :=
  match i with
  | .nop => Sys2Proof.Machine.execNop s
  | .nttInit => Sys2Proof.Machine.execNttInit s
  | .fftInit => Sys2Proof.Machine.execFftInit s
  | .nttFwd => Sys2Proof.Machine.execNttFwd s
  | .fftFwd => Sys2Proof.Machine.execFftFwd s
  | .nttInv => Sys2Proof.Machine.execNttInv s
  | .fftInv => Sys2Proof.Machine.execFftInv s
  | .nttRelease => Sys2Proof.Machine.execNttRelease s
  | .fftRelease => Sys2Proof.Machine.execFftRelease s
  | .bitrevW => Sys2Proof.Machine.execBitrevW s
  | .bitrevC => Sys2Proof.Machine.execBitrevC s
  | .isprime => Sys2Proof.Machine.execIsprime s
  | .primroot => Sys2Proof.Machine.execPrimroot s
  | .rootunity => Sys2Proof.Machine.execRootunity s
  | .egcd => Sys2Proof.Machine.execEgcd s
  | .modinv => Sys2Proof.Machine.execModinv s
  | .pow => Sys2Proof.Machine.execPow s
  | .ispow2 => Sys2Proof.Machine.execIspow2 s
  | .bitrevn => Sys2Proof.Machine.execBitrevn s

end Sys2Proof.Machine
end

