-- ==== Sys2Proof/Machine/Step.lean ====
section
/-! DEFINITION. One step of the block is one event of its total order (20_memory.md R70): a host transaction, the
engine's execution and completion of the command in flight, or a power-on reset. -/

namespace Sys2Proof.Machine

/-- The engine's turn. With a command in flight it decodes CMD and runs the body with its completion, or completes with
ILLEGAL_COMMAND (40_control.md R111); with none in flight nothing happens (70_reset_and_hazards.md R243). -/
def runEngine (s : State) : Host.Outcome State Fault Refusal :=
  if s.status.busy then
    match decode s.cmd with
    | .ok i => exec i s
    | .error _ => raise .illegalCommand s
  else .next s

/-- One event. With nothing scheduled it is the engine's turn: its completion is always enabled
(70_reset_and_hazards.md R251), and an idle block waits (R243; log entries 2 and 4). -/
def step (s : State) : Host.Outcome State Fault Refusal :=
  match s.schedule with
  | [] => runEngine s
  | .engine :: rest => runEngine { s with schedule := rest }
  | .host t :: rest => .next (serve t { s with schedule := rest })
  | .powerOn contents :: rest => .next (powerOnReset contents { s with schedule := rest })

/-- The state in which the command word made of the `nbits` low bits of `w` has just been accepted (40_control.md R110)
and the engine moves next, so that the very next step decodes and runs it (log entry 8). -/
def State.withFetchWord (s : State) (nbits w : Nat) : State :=
  { accept (BitVec.ofNat 64 (w % 2 ^ nbits)) s with schedule := .engine :: s.schedule }

end Sys2Proof.Machine
end

