-- ==== Sys2Proof/Safety.lean ====
section
/-! DEFINITION. The terms the statements use: which command may report which code, what a sound context is, and the
invariants of a run. -/

namespace Sys2Proof.Machine

/-- A utility command: the eight that write the result registers (41_number_theory.md R120, 10_state.md R33). -/
def isUtility : Instr → Bool
  | .isprime | .primroot | .rootunity | .egcd | .modinv | .pow | .ispow2 | .bitrevn => true
  | .nop | .nttInit | .fftInit | .nttFwd | .fftFwd | .nttInv | .fftInv | .nttRelease | .fftRelease | .bitrevW
  | .bitrevC => false

/-- A command that draws witnesses (30_encoding.md R94). -/
def drawsWitnesses : Instr → Bool
  | .nttInit | .isprime | .primroot | .rootunity => true
  | .nop | .fftInit | .nttFwd | .fftFwd | .nttInv | .fftInv | .nttRelease | .fftRelease | .bitrevW | .bitrevC
  | .egcd | .modinv | .pow | .ispow2 | .bitrevn => false

/-- The codes marked for a command in the table of 60_exceptions.md R212. -/
def markedErrors : Instr → List ErrorCode
  | .nop => []
  | .nttInit =>
    [.invalidDegree, .notPrime, .invalidOrder, .primitiveRootNotFound, .invalidGcd, .capacity, .rootDegenerate]
  | .fftInit => [.invalidDegree, .capacity]
  | .nttFwd | .nttInv | .fftFwd | .fftInv => [.invalidLength, .notReady]
  | .nttRelease | .fftRelease => []
  | .bitrevW | .bitrevC => [.lengthNotPowerOfTwo, .capacity]
  | .isprime => []
  | .primroot => [.notPrime, .primitiveRootNotFound]
  | .rootunity => [.notPrime, .invalidOrder, .primitiveRootNotFound, .rootDegenerate]
  | .egcd => [.operandRange]
  | .modinv => [.invalidGcd, .invalidModulus]
  | .pow => [.invalidGcd, .invalidExponent, .invalidModulus]
  | .ispow2 => []
  | .bitrevn => [.operandRange]

/-- The values STATUS.ERRCODE takes (60_exceptions.md R211). -/
def legalCode (e : BitVec 8) : Bool :=
  [0x00, 0x01, 0x02, 0x03, 0x04, 0x05, 0x06, 0x07, 0x08, 0x10, 0x11, 0x12, 0x13, 0x14, 0x15].contains e

/-- Read one byte of memory, by bus address. -/
def byteAt (s : State) (a : Nat) : Byte := s.mem.readByte a

/-- A byte address among words 0 .. n - 1 of a memory. -/
abbrev inWords (b : Bank) (n a : Nat) : Prop := bankBase b ≤ a ∧ a < bankBase b + 8 * n

/-- The flags agree with one another: ERR says ERRCODE ≠ 0; ERRCODE is one of R211's values; a command in flight has no
completion flags; before the first acceptance CMD is 0 and nothing was overrun (10_state.md R25, R26). -/
abbrev FlagsSound (s : State) : Prop :=
  s.status.err = (s.status.errcode != 0) ∧
  legalCode s.status.errcode = true ∧
  (s.status.busy = true → s.status.done = false ∧ s.status.errcode = 0) ∧
  (s.status.busy = false → s.status.done = false →
    s.cmd = 0 ∧ s.status.overrun = false ∧ s.status.errcode = 0)

/-- The memory is in canonical form and lists only bytes the build has (20_memory.md R60). -/
abbrev MemorySound (s : State) : Prop :=
  s.mem.wf = true ∧ ∀ c ∈ s.mem, mappedByte s.config c.1 = true

/-- MR_TRIALS is never 0, and the generator runs from the seed in MR_SEED (10_state.md R28, R29). -/
abbrev WitnessSound (s : State) : Prop := s.mrTrials ≠ 0 ∧ s.gen.seed = s.mrSeed

/-- The invariant of the register file and the memory. -/
abbrev BaseInv (s : State) : Prop := FlagsSound s ∧ MemorySound s ∧ WitnessSound s

/-- A usable NTT engine: n a power of two up to N_MAX, q a legal modulus, ψ a residue with ψ^n = -1, the two inverses,
and the tables of powers (10_state.md R34, R40, R41; 43_transform_engine.md R179, R180). -/
abbrev NttSound (s : State) : Prop :=
  let q := uint s.ntt.q
  let n := uint s.ntt.n
  let psi := uint s.ntt.psi
  let psiInv := uint s.ntt.psiInv
  let nInv := uint s.ntt.nInv
  isPow2 n = true ∧ n ≤ s.config.nMax ∧ 2 < q ∧ q < 2 ^ 63 ∧ (q - 1) % (2 * n) = 0 ∧
  psi < q ∧ psiInv < q ∧ nInv < q ∧
  psi ^ n % q = q - 1 ∧ psi * psiInv % q = 1 ∧ n * nInv % q = 1 ∧
  (∀ k < n, uint (bankRead .twnFwd k s) = psi ^ k % q) ∧
  (∀ k < n, uint (bankRead .twnInv k s) = psiInv ^ k % q)

/-- A usable FFT engine: n a power of two up to N_MAX, the forward root, and the two tables (10_state.md R35, R40, R41;
43_transform_engine.md R181, R185). -/
abbrev FftSound (s : State) : Prop :=
  let n := uint s.fft.n
  isPow2 n = true ∧ n ≤ s.config.nMax ∧
  s.fft.wRe = (romFwd (Nat.log2 n)).re ∧ s.fft.wIm = (romFwd (Nat.log2 n)).im ∧
  loadPairs .twfFwd n s = fftTwiddles (romFwd (Nat.log2 n)) n ∧
  loadPairs .twfInv n s = fftTwiddles (romInv (Nat.log2 n)) n

/-- Each context is either usable and sound, or not ready with its registers 0 (10_state.md R34, R35, R40). -/
abbrev ContextInv (s : State) : Prop :=
  (s.status.nttReady = true → NttSound s) ∧
  (s.status.nttReady = false → s.ntt = NttContext.cleared) ∧
  (s.status.fftReady = true → FftSound s) ∧
  (s.status.fftReady = false → s.fft = FftContext.cleared)

/-- The memories a command may write (20_memory.md R69, 10_state.md R41). -/
def writtenBanks : Instr → List Bank
  | .nttInit => [.twnFwd, .twnInv]
  | .fftInit => [.twfFwd, .twfInv]
  | .nttFwd | .nttInv | .fftFwd | .fftInv | .bitrevW | .bitrevC => [.outBank]
  | .nop | .nttRelease | .fftRelease | .isprime | .primroot | .rootunity | .egcd | .modinv | .pow | .ispow2
  | .bitrevn => []

/-- What no command ever writes: CMD, the operand and MR registers, IRQ_EN, the OVERRUN flag, and the model's own
fields. -/
abbrev OperandsKept (s t : State) : Prop :=
  t.config = s.config ∧ t.cmd = s.cmd ∧ t.irqEn = s.irqEn ∧ t.mrTrials = s.mrTrials ∧ t.mrSeed = s.mrSeed ∧
  t.opa = s.opa ∧ t.opb = s.opb ∧ t.opc = s.opc ∧ t.len = s.len ∧
  t.status.overrun = s.status.overrun ∧ t.schedule = s.schedule ∧ t.responses = s.responses

/-- The three result registers are unchanged. -/
abbrev ResultsKept (s t : State) : Prop := t.res0 = s.res0 ∧ t.res1 = s.res1 ∧ t.res2 = s.res2

/-- The three result registers hold these words. -/
abbrev ResultsAre (t : State) (r0 r1 r2 : Word) : Prop := t.res0 = r0 ∧ t.res1 = r1 ∧ t.res2 = r2

/-- The NTT context's READY bit and registers are unchanged. -/
abbrev NttKept (s t : State) : Prop := t.ntt = s.ntt ∧ t.status.nttReady = s.status.nttReady

/-- The FFT context's READY bit and registers are unchanged. -/
abbrev FftKept (s t : State) : Prop := t.fft = s.fft ∧ t.status.fftReady = s.status.fftReady

/-- Every byte of memory is unchanged. -/
abbrev MemoryKept (s t : State) : Prop := ∀ a, byteAt t a = byteAt s a

/-- The flags of a successful completion (40_control.md R112). -/
abbrev Succeeded (t : State) : Prop :=
  t.status.busy = false ∧ t.status.done = true ∧ t.status.err = false ∧ t.status.errcode = 0 ∧ t.irqPend = true

/-- The flags of an error completion with a code (40_control.md R112, 60_exceptions.md R210). -/
abbrev Failed (e : ErrorCode) (t : State) : Prop :=
  t.status.busy = false ∧ t.status.done = true ∧ t.status.err = true ∧ t.status.errcode = e.code ∧ t.irqPend = true

/-- A utility command's frame: besides the completion flags and the results, only the witness generator may change. -/
abbrev UtilityFrame (s t : State) : Prop := OperandsKept s t ∧ NttKept s t ∧ FftKept s t ∧ MemoryKept s t

/-- The frame of a command that moves a vector to OUT words 0 .. n - 1: besides the completion flags, only those words
change. -/
abbrev VectorFrame (n : Nat) (s t : State) : Prop :=
  OperandsKept s t ∧ ResultsKept s t ∧ NttKept s t ∧ FftKept s t ∧ t.gen = s.gen ∧
  ∀ a, ¬ inWords .outBank n a → byteAt t a = byteAt s a

/-- Nothing but the completion flags changes. -/
abbrev NothingElse (s t : State) : Prop :=
  OperandsKept s t ∧ ResultsKept s t ∧ NttKept s t ∧ FftKept s t ∧ t.gen = s.gen ∧ MemoryKept s t

/-- A number that takes no draw and is not prime: x ≤ 1, or even and at least 4 (41_number_theory.md R122). -/
abbrev PlainlyComposite (x : Int) : Prop := x ≤ 1 ∨ (4 ≤ x ∧ x % 2 = 0)

/-- The bus address of a register (10_state.md R20). -/
def regAddr (r : Reg) : BusAddr := BitVec.ofNat 24 (regOffset r)

/-- The bus address of a memory word (20_memory.md R60). -/
def wordAddr (b : Bank) (k : Nat) : BusAddr := BitVec.ofNat 24 (bankAddr b k)

/-! ### Terms of the statements about drawn witnesses (41_number_theory.md R121, R124) -/

/-- The generator's state after `j` draws for x. -/
def genAfter (g : WitnessGen) (x j : Nat) : WitnessGen := (fun g => advanceGen g x)^[j] g

/-- The witness of trial number `j`, counted from 0. -/
def witnessAt (g : WitnessGen) (x j : Nat) : Nat := (drawWitness (genAfter g x j) x).1

/-- The trials of an odd x from 5: with verdict 1 all `trials` witnesses pass; with verdict 0 the draws stop at the first
one that fails. `g'` is the generator's state after them. -/
def TrialRun (trials x : Nat) (g : WitnessGen) (verdict : Bool) (g' : WitnessGen) : Prop :=
  (verdict = true ∧ (∀ j < trials, trialPasses x (witnessAt g x j) = true) ∧ g' = genAfter g x trials) ∨
  (verdict = false ∧ ∃ j < trials, trialPasses x (witnessAt g x j) = false ∧
    (∀ i < j, trialPasses x (witnessAt g x i) = true) ∧ g' = genAfter g x (j + 1))

/-- A candidate r passes the generator test for m. -/
def Accepted (m r : Nat) : Prop := ∀ f : Nat, f.Prime → f ∣ m - 1 → r ^ ((m - 1) / f) % m ≠ 1

/-- r is the first candidate of 2 .. m - 1 that passes. -/
def FirstAccepted (m r : Nat) : Prop :=
  2 ≤ r ∧ r < m ∧ Accepted m r ∧ ∀ r', 2 ≤ r' → r' < r → ¬ Accepted m r'

/-! ### Terms of the statements about binary64 (43_transform_engine.md R176; the format, log entry 14) -/

/-- The pattern is finite: its exponent field is not all ones. -/
def finite64 (w : Word) : Bool := w.extractLsb' 52 11 != 0x7FF

/-- The sign bit. -/
def sign64 (w : Word) : Bool := w.getLsbD 63

/-- The rational value of a finite pattern, from its sign, exponent and fraction fields. -/
def value64 (w : Word) : ℚ :=
  let e := (w.extractLsb' 52 11).toNat
  let f := (w.extractLsb' 0 52).toNat
  (if sign64 w then -1 else 1) *
    (if e = 0 then (f : ℚ) * 2 ^ (-1074 : ℤ) else (2 ^ 52 + f : ℚ) * 2 ^ ((e : ℤ) - 1075))

/-- `w` is the rounding of v to nearest, ties to even: a finite pattern nearest to v, with an even last bit when another
value is as near; an infinity from 2^1024 - 2^970 on (half a last place above the largest finite value); the sign is
v's. -/
def RoundsTo (v : ℚ) (w : Word) : Prop :=
  (|v| < 2 ^ 1024 - 2 ^ 970 → finite64 w = true ∧
    ∀ z, finite64 z = true → |value64 w - v| ≤ |value64 z - v| ∧
      (value64 z ≠ value64 w → |value64 z - v| = |value64 w - v| → w.getLsbD 0 = false)) ∧
  (2 ^ 1024 - 2 ^ 970 ≤ |v| → w = if v < 0 then 0xFFF0000000000000 else 0x7FF0000000000000) ∧
  (v ≠ 0 → sign64 w = decide (v < 0))

/-! ### Terms of the statements about the transforms -/

/-- Elements b, b + 2, b + 4, … of a vector, `n` of them. -/
def everyOther {α : Type} [Inhabited α] (b n : Nat) (xs : List α) : List α :=
  (List.range n).map (fun i => xs.getD (2 * i + b) default)

/-- A ready and sound NTT engine of a prime modulus, with canonical memory and LEN = n. -/
abbrev NttUsable (s : State) : Prop :=
  s.mem.wf = true ∧ s.status.nttReady = true ∧ NttSound s ∧ (uint s.ntt.q).Prime ∧ s.len = s.ntt.n

end Sys2Proof.Machine
end

