-- ==== Sys2Proof/Certificates/Slice0/Obligations.lean ====
section
/-! DEFINITION. The statements for the provers. Each docstring names the rule it formalises. In all of them the list
`responses` (what the block answered) and the list `schedule` (what happens next) are the model's own form of the bus
answers and of the total order of events (log entries 2 and 3), and `gen` is its form of the witness generator's state
(log entry 5). -/

open Sys2Proof Sys2Proof.Machine

/-! ### Encoding -/

/-- 30_encoding.md R93: decoding the encoded command gives it back, and a word that decodes is that command's word. -/
def Obligations.DecodeAndEncodeAgree : Prop :=
  (∀ i : Instr, i.wellFormed = true → decode (encode i) = .ok i) ∧
  (∀ (c : Word) (i : Instr), decode c = .ok i → c = encode i)

/-- 30_encoding.md R95: the words that decode are exactly those with RSV = 0, an assigned OPCODE and a legal DOM, and a
word that does not is rejected by the name of a check that it fails. -/
def Obligations.DecodableIffFieldsLegal : Prop :=
  ∀ c : Word,
    ((∃ i, decode c = .ok i) ↔ (fieldsOf c).wellFormed = true) ∧
    (∀ e, decode c = .error e →
      (e = .reservedBits ∧ (fieldsOf c).rsvZero = false) ∨
      (e = .unassignedOpcode ∧ (fieldsOf c).opcodeAssigned = false) ∨
      (e = .illegalDomain ∧ (fieldsOf c).domLegal = false))

/-- 30_encoding.md R93: words of each family written out from the encoding table. -/
def Obligations.SampleWordsDecode : Prop :=
  decode 0x0000000000000000 = .ok .nop ∧ decode 0x0000000000000101 = .ok .fftInit ∧
  decode 0x0000000000000003 = .ok .nttInv ∧ decode 0x0000000000000105 = .ok .bitrevC ∧
  decode 0x0000000000000015 = .ok .pow ∧ decode 0x0000000000000017 = .ok .bitrevn

/-! ### The step and the command frame -/

/-- 40_control.md R111: when the word in CMD of a command in flight decodes to i, the engine's event is exec of i, with
the event taken off the schedule; with nothing scheduled it is exec of i at the state itself. 20_memory.md R70: a host
event is the transaction performed on the state with the event taken off. 70_reset_and_hazards.md R243: with no command in
flight the engine's turn changes nothing. (The schedule is the model's own form of the spec's order of events, log entries
2 and 4.) -/
def Obligations.StepRunsDecodedCommand : Prop :=
  (∀ (s : State) (i : Instr), s.status.busy = true → decode s.cmd = .ok i → i.wellFormed = true →
    (∀ rest, s.schedule = .engine :: rest → step s = exec i { s with schedule := rest }) ∧
    (s.schedule = [] → step s = exec i s)) ∧
  (∀ (s : State) (x : Transaction) (rest : List Event), s.schedule = .host x :: rest →
    step s = .next (serve x { s with schedule := rest })) ∧
  (∀ s : State, s.status.busy = false →
    (∀ rest, s.schedule = .engine :: rest → step s = .next { s with schedule := rest }) ∧
    (s.schedule = [] → step s = .next s))

/-- 30_encoding.md R95: an illegal word in flight completes with ILLEGAL_COMMAND (0x10) and changes no other state. -/
def Obligations.IllegalWordCompletes : Prop :=
  ∀ (s : State) (e : DecodeError) (rest : List Event), s.status.busy = true → decode s.cmd = .error e →
    s.schedule = .engine :: rest →
    step s = .next { s with
      schedule := rest, irqPend := true,
      status := { s.status with busy := false, done := true, err := true, errcode := 0x10 } }

/-- 40_control.md R110: an idle host write of any word to CMD is accepted with OKAY; IRQ.PEND and everything else is
unchanged. -/
def Obligations.CmdWriteIsAccepted : Prop :=
  ∀ (s : State) (c : Word), s.status.busy = false →
    serve (.write (regAddr .cmd) 0xFF c) s = { s with
      cmd := c, responses := .write .okay :: s.responses,
      status := { s.status with busy := true, done := false, err := false, overrun := false, errcode := 0 } }

/-- 40_control.md R112: from every state every command answers a next state, in which it has completed: BUSY 0, DONE 1,
ERR exactly when ERRCODE is not 0, IRQ.PEND 1; and no event of any agent stops the machine. -/
def Obligations.EveryCommandCompletes : Prop :=
  (∀ (i : Instr) (s : State), ∃ t, exec i s = .next t ∧
    t.status.busy = false ∧ t.status.done = true ∧ t.status.err = (t.status.errcode != 0) ∧ t.irqPend = true) ∧
  (∀ s : State, ∃ t, step s = .next t)

/-- 30_encoding.md R94, 10_state.md R33 and R40, 20_memory.md R69: the frame of every command. No command writes an
operand register; only utility commands write RES; only the four that test primality draw witnesses; only a context's
INIT and RELEASE write it; and every byte outside the memories of `writtenBanks` is unchanged (no byte of memory at all
changes for the commands that store nothing). -/
def Obligations.CommandFrame : Prop :=
  ∀ (i : Instr) (s t : State), exec i s = .next t →
    OperandsKept s t ∧
    (isUtility i = false → ResultsKept s t) ∧
    (drawsWitnesses i = false → t.gen = s.gen) ∧
    (i ≠ .nttInit → i ≠ .nttRelease → NttKept s t) ∧
    (i ≠ .fftInit → i ≠ .fftRelease → FftKept s t) ∧
    (∀ a, (∀ b ∈ writtenBanks i, inWindow s.config b a = false) → byteAt t a = byteAt s a)

/-- 60_exceptions.md R212: a command completes with success or with a code marked for it; an illegal word completes with
ILLEGAL_COMMAND only. -/
def Obligations.CodesAreTheMarkedOnes : Prop :=
  (∀ (i : Instr) (s t : State), exec i s = .next t →
    t.status.errcode = 0 ∨ ∃ e ∈ markedErrors i, t.status.errcode = e.code) ∧
  (∀ (s : State) (e : DecodeError), s.status.busy = true → decode s.cmd = .error e →
    ∃ t, runEngine s = .next t ∧ t.status.errcode = 0x10)

/-- 60_exceptions.md R210 and R215: `raise` completes the command with its code, and what an error completion leaves; its
code is one of those marked for the command. -/
def Obligations.ErrorCompletionState : Prop :=
  (∀ (e : ErrorCode) (s : State), raise e s = .next { s with
    irqPend := true, status := { s.status with busy := false, done := true, err := true, errcode := e.code } }) ∧
  ∀ (i : Instr) (s t : State), exec i s = .next t → t.status.err = true →
    (∃ e ∈ markedErrors i, t.status.errcode = e.code) ∧
    t.status.busy = false ∧ t.status.done = true ∧ t.status.errcode ≠ 0 ∧ t.irqPend = true ∧
    t.cmd = s.cmd ∧ t.opa = s.opa ∧ t.opb = s.opb ∧ t.opc = s.opc ∧ t.len = s.len ∧
    (isUtility i = true → ResultsAre t 0 0 0) ∧ (isUtility i = false → ResultsKept s t) ∧
    (i = .nttInit → t.status.nttReady = false ∧ t.ntt = NttContext.cleared) ∧ (i ≠ .nttInit → NttKept s t) ∧
    (i = .fftInit → t.status.fftReady = false ∧ t.fft = FftContext.cleared) ∧ (i ≠ .fftInit → FftKept s t) ∧
    t.mem = s.mem

/-! ### NOP and the two releases -/

/-- 40_control.md R113: NOP completes from every state and changes the completion flags only. -/
def Obligations.NopCompletes : Prop :=
  ∀ s : State, exec .nop s = .next { s with
    irqPend := true, status := { s.status with busy := false, done := true, err := false, errcode := 0 } }

/-- 43_transform_engine.md R190 and R191: a release completes from every state, clears READY and the parameter registers
of its context, and changes nothing else but the completion flags (the tables keep their words). -/
def Obligations.ReleaseClearsContext : Prop :=
  ∀ s : State,
    exec .nttRelease s = .next { s with
      irqPend := true, ntt := { q := 0, n := 0, psi := 0, psiInv := 0, nInv := 0 },
      status := { s.status with busy := false, done := true, err := false, errcode := 0, nttReady := false } } ∧
    exec .fftRelease s = .next { s with
      irqPend := true, fft := { n := 0, wRe := 0, wIm := 0 },
      status := { s.status with busy := false, done := true, err := false, errcode := 0, fftReady := false } }

/-! ### The number-theory unit -/

/-- 41_number_theory.md R121 and R122: ISPRIME completes from every state with verdict 0 or 1. Numbers up to 1 and even
numbers from 4 give 0, 2 and 3 give 1, with no draw. An odd number from 5 gives 1 when all MR_TRIALS drawn witnesses pass
their trials, and 0 when one fails, with the draws stopping at the first that fails (`genAfter` is the model's form of
the draws, log entry 5). -/
def Obligations.IsprimeVerdict : Prop :=
  ∀ s : State, ∃ t, exec .isprime s = .next t ∧ Succeeded t ∧ UtilityFrame s t ∧
    (ResultsAre t 0 0 0 ∨ ResultsAre t 1 0 0) ∧
    (PlainlyComposite (sint s.opa) → ResultsAre t 0 0 0 ∧ t.gen = s.gen) ∧
    (sint s.opa = 2 ∨ sint s.opa = 3 → ResultsAre t 1 0 0 ∧ t.gen = s.gen) ∧
    (∀ x : Nat, 5 ≤ x → x % 2 = 1 → sint s.opa = x →
      ∃ verdict, TrialRun s.mrTrials.toNat x s.gen verdict t.gen ∧ ResultsAre t (if verdict then 1 else 0) 0 0 ∧
        (t.res0 = 0 ↔ ∃ j < s.mrTrials.toNat, trialPasses x (witnessAt s.gen x j) = false))

/-- 41_number_theory.md R136 item 4 and R121: a prime passes whatever witnesses are drawn, and takes MR_TRIALS draws
when it is 5 or more (`advanceGen` is the model's form of one draw, log entry 5). -/
def Obligations.IsprimeAcceptsEveryPrime : Prop :=
  ∀ (s : State) (p : Nat), p.Prime → sint s.opa = p →
    ∃ t, exec .isprime s = .next t ∧ Succeeded t ∧ UtilityFrame s t ∧ ResultsAre t 1 0 0 ∧
      (5 ≤ p → t.gen = (fun g => advanceGen g p)^[s.mrTrials.toNat] s.gen)

/-- 41_number_theory.md R121 and R122: the trial of an odd x from 5, x - 1 = d·2^k with d odd, passes with witness a
exactly when a^d is 1 modulo x or some a^(d·2^i) with i < k is x - 1; so the witnesses 1 and x - 1 pass. -/
def Obligations.TrivialWitnessesPass : Prop :=
  (∀ x : Nat, 5 ≤ x → x % 2 = 1 → trialPasses x 1 = true ∧ trialPasses x (x - 1) = true) ∧
  ∀ x a d k : Nat, 5 ≤ x → x % 2 = 1 → 1 ≤ a → a ≤ x - 1 → x - 1 = d * 2 ^ k → d % 2 = 1 →
    (trialPasses x a = true ↔ a ^ d % x = 1 ∨ ∃ i < k, a ^ (d * 2 ^ i) % x = x - 1)

/-- 00_scope.md R7: every witness drawn for a number x of at least 2 lies in [1, x - 1], and the draw advances the
generator (the model's form of the open parameter WitnessGen, log entry 5). -/
def Obligations.WitnessInRange : Prop :=
  ∀ (g : WitnessGen) (x : Nat), 2 ≤ x →
    1 ≤ (drawWitness g x).1 ∧ (drawWitness g x).1 ≤ x - 1 ∧ (drawWitness g x).2 ≠ g ∧ (drawWitness g x).2.seed = g.seed

/-- 41_number_theory.md R123: the distinct primes that divide x, exactly. -/
def Obligations.PrimeFactorsExact : Prop :=
  primeFactors 1 = [] ∧
  ∀ x : Nat, 1 ≤ x → (primeFactors x).Nodup ∧ ∀ p, p ∈ primeFactors x ↔ p.Prime ∧ p ∣ x

/-- 41_number_theory.md R136 item 5: for a prime m from 3, PRIMROOT gives the smallest primitive root. R124 and R125: for
every odd m from 5, prime or not, a failing trial gives NOT_PRIME, and when the trials pass the result is the first
accepted candidate (`TrialRun` uses the model's form of the draws, log entry 5). -/
def Obligations.PrimrootIsSmallest : Prop :=
  (∀ (s : State) (m : Nat), m.Prime → 3 ≤ m → sint s.opa = m →
    ∃ t r, exec .primroot s = .next t ∧ Succeeded t ∧ UtilityFrame s t ∧ ResultsAre t (natBits64 r) 0 0 ∧
      2 ≤ r ∧ r < m ∧ orderOf ((r : Nat) : ZMod m) = m - 1 ∧
      ∀ r' : Nat, 2 ≤ r' → r' < r → orderOf ((r' : Nat) : ZMod m) ≠ m - 1) ∧
  (∀ (s : State) (m : Nat), 5 ≤ m → m % 2 = 1 → sint s.opa = m →
    ∃ t verdict, exec .primroot s = .next t ∧ UtilityFrame s t ∧
      TrialRun s.mrTrials.toNat m s.gen verdict t.gen ∧
      (verdict = false → Failed .notPrime t ∧ ResultsAre t 0 0 0) ∧
      (verdict = true → Succeeded t ∧ ∃ r, FirstAccepted m r ∧ ResultsAre t (natBits64 r) 0 0))

/-- 41_number_theory.md R136 item 6: for a prime m and k from 2 dividing m - 1, ROOTUNITY gives a residue of order
exactly k. R126 and R127: for every odd m from 5, prime or not, a failing trial gives NOT_PRIME; when the trials pass, a
bad order gives INVALID_ORDER, and otherwise c = g^((m - 1)/k) mod m, for g the first accepted candidate, is the result,
or ROOT_DEGENERATE when it is 1 (`TrialRun` uses the model's form of the draws, log entry 5). -/
def Obligations.RootunityHasExactOrder : Prop :=
  (∀ (s : State) (m k : Nat), m.Prime → 2 ≤ k → (m - 1) % k = 0 → 3 ≤ m → sint s.opa = m → sint s.opb = k →
    ∃ t r, exec .rootunity s = .next t ∧ Succeeded t ∧ UtilityFrame s t ∧ ResultsAre t (natBits64 r) 0 0 ∧
      r < m ∧ orderOf ((r : Nat) : ZMod m) = k) ∧
  (∀ (s : State) (m : Nat), 5 ≤ m → m % 2 = 1 → sint s.opa = m →
    ∃ t verdict, exec .rootunity s = .next t ∧ UtilityFrame s t ∧
      TrialRun s.mrTrials.toNat m s.gen verdict t.gen ∧
      (verdict = false → Failed .notPrime t ∧ ResultsAre t 0 0 0) ∧
      (verdict = true →
        (sint s.opb < 1 ∨ ((m : Int) - 1) % sint s.opb ≠ 0 → Failed .invalidOrder t ∧ ResultsAre t 0 0 0) ∧
        (∀ k : Nat, 1 ≤ k → (m - 1) % k = 0 → sint s.opb = k →
          ∃ g, FirstAccepted m g ∧
            (g ^ ((m - 1) / k) % m = 1 → Failed .rootDegenerate t ∧ ResultsAre t 0 0 0) ∧
            (g ^ ((m - 1) / k) % m ≠ 1 → Succeeded t ∧ ResultsAre t (natBits64 (g ^ ((m - 1) / k) % m)) 0 0))))

/-- 41_number_theory.md R125 and R127: PRIMROOT of 2 fails with PRIMITIVE_ROOT_NOT_FOUND and of a plainly composite
number with NOT_PRIME. The errors of ROOTUNITY, in their order: a plainly composite m gives NOT_PRIME whatever k;
for a prime m an order below 1 or not dividing m - 1 gives INVALID_ORDER; then m = 2 gives PRIMITIVE_ROOT_NOT_FOUND, and
k = 1 with m from 3 gives ROOT_DEGENERATE. -/
def Obligations.RootSearchErrors : Prop :=
  ∀ s : State,
    (sint s.opa = 2 → ∃ t, exec .primroot s = .next t ∧ Failed .primitiveRootNotFound t ∧ UtilityFrame s t ∧
      ResultsAre t 0 0 0) ∧
    (PlainlyComposite (sint s.opa) → ∃ t, exec .primroot s = .next t ∧ Failed .notPrime t ∧ UtilityFrame s t ∧
      ResultsAre t 0 0 0 ∧ t.gen = s.gen) ∧
    (PlainlyComposite (sint s.opa) →
      ∃ t, exec .rootunity s = .next t ∧ Failed .notPrime t ∧ UtilityFrame s t ∧ ResultsAre t 0 0 0) ∧
    (∀ m : Nat, m.Prime → sint s.opa = m →
      (sint s.opb < 1 ∨ ((m : Int) - 1) % sint s.opb ≠ 0 →
        ∃ t, exec .rootunity s = .next t ∧ Failed .invalidOrder t ∧ UtilityFrame s t ∧ ResultsAre t 0 0 0) ∧
      (sint s.opb = 1 → m = 2 →
        ∃ t, exec .rootunity s = .next t ∧ Failed .primitiveRootNotFound t ∧ UtilityFrame s t ∧ ResultsAre t 0 0 0) ∧
      (sint s.opb = 1 → 3 ≤ m →
        ∃ t, exec .rootunity s = .next t ∧ Failed .rootDegenerate t ∧ UtilityFrame s t ∧ ResultsAre t 0 0 0))

/-- 41_number_theory.md R128 and R129: EGCD of two non-negative operands gives the greatest common divisor and Bézout
coefficients within the bounds of R128, as signed words, and they are the exact coefficients of the loop: there are rows
(r i, x i, y i) that start with (a, 1, 0) and (b, 0, 1), each next row is the one before the last less the quotient times
the last, until the row after number `n` has r = 0, and the results are row `n`. A negative operand gives
OPERAND_RANGE. -/
def Obligations.EgcdGivesBezout : Prop :=
  ∀ s : State,
    let a := sint s.opa
    let b := sint s.opb
    (0 ≤ a → 0 ≤ b → ∃ t, exec .egcd s = .next t ∧ Succeeded t ∧ UtilityFrame s t ∧ t.gen = s.gen ∧
      uint t.res0 = Int.gcd a b ∧ a * sint t.res1 + b * sint t.res2 = uint t.res0 ∧
      |sint t.res1| ≤ max 1 b ∧ |sint t.res2| ≤ max 1 a ∧
      ∃ (n : Nat) (r x y : Nat → Int),
        r 0 = a ∧ r 1 = b ∧ x 0 = 1 ∧ x 1 = 0 ∧ y 0 = 0 ∧ y 1 = 1 ∧
        (∀ i < n, r (i + 1) ≠ 0 ∧ r (i + 2) = r i - r i / r (i + 1) * r (i + 1) ∧
          x (i + 2) = x i - r i / r (i + 1) * x (i + 1) ∧ y (i + 2) = y i - r i / r (i + 1) * y (i + 1)) ∧
        r (n + 1) = 0 ∧ (uint t.res0 : Int) = r n ∧ sint t.res1 = x n ∧ sint t.res2 = y n) ∧
    (a < 0 ∨ b < 0 → ∃ t, exec .egcd s = .next t ∧ Failed .operandRange t ∧ UtilityFrame s t ∧ t.gen = s.gen ∧
      ResultsAre t 0 0 0)

/-- 41_number_theory.md R130 and R131: MODINV gives the residue r with a·r = 1 modulo m when a is coprime to m, else
INVALID_GCD; a modulus of 0 or less gives INVALID_MODULUS. -/
def Obligations.ModinvInverts : Prop :=
  ∀ s : State,
    let a := sint s.opa
    let m := sint s.opb
    (0 < m → Int.gcd a m = 1 → ∃ t, exec .modinv s = .next t ∧ Succeeded t ∧ UtilityFrame s t ∧ t.gen = s.gen ∧
      (uint t.res0 : Int) < m ∧ a * uint t.res0 % m = 1 % m ∧ t.res1 = 0 ∧ t.res2 = 0) ∧
    (0 < m → Int.gcd a m ≠ 1 → ∃ t, exec .modinv s = .next t ∧ Failed .invalidGcd t ∧ UtilityFrame s t ∧
      t.gen = s.gen ∧ ResultsAre t 0 0 0) ∧
    (m ≤ 0 → ∃ t, exec .modinv s = .next t ∧ Failed .invalidModulus t ∧ UtilityFrame s t ∧ t.gen = s.gen ∧
      ResultsAre t 0 0 0)

/-- 41_number_theory.md R132 and R133: POW with an exponent of at least 0 and a positive modulus gives b^e mod m, with
0^0 = 1. -/
def Obligations.PowComputesPower : Prop :=
  ∀ s : State, 0 ≤ sint s.opb → 0 < sint s.opc →
    ∃ t, exec .pow s = .next t ∧ Succeeded t ∧ UtilityFrame s t ∧ t.gen = s.gen ∧
      (uint t.res0 : Int) = sint s.opa ^ (sint s.opb).toNat % sint s.opc ∧ t.res1 = 0 ∧ t.res2 = 0

/-- 41_number_theory.md R133: exponent -1 means the inverse, and the errors of POW in their order. -/
def Obligations.PowInverseAndErrors : Prop :=
  ∀ s : State,
    let b := sint s.opa
    let e := sint s.opb
    let m := sint s.opc
    (e = -1 → 0 < m → Int.gcd b m = 1 → ∃ t, exec .pow s = .next t ∧ Succeeded t ∧ UtilityFrame s t ∧
      (uint t.res0 : Int) < m ∧ b * uint t.res0 % m = 1 % m ∧ t.res1 = 0 ∧ t.res2 = 0) ∧
    (e = -1 → 0 < m → Int.gcd b m ≠ 1 → ∃ t, exec .pow s = .next t ∧ Failed .invalidGcd t ∧ UtilityFrame s t ∧
      ResultsAre t 0 0 0) ∧
    (e < -1 → ∃ t, exec .pow s = .next t ∧ Failed .invalidExponent t ∧ UtilityFrame s t ∧ ResultsAre t 0 0 0) ∧
    (-1 ≤ e → m ≤ 0 → ∃ t, exec .pow s = .next t ∧ Failed .invalidModulus t ∧ UtilityFrame s t ∧ ResultsAre t 0 0 0)

/-- 41_number_theory.md R134: IsPow2 of a signed 64-bit x is the bit test on the two's-complement patterns, and holds
exactly of 2^k for k from 1 to 62. -/
def Obligations.IsPow2Exact : Prop :=
  ∀ x : Int, -2 ^ 63 ≤ x → x < 2 ^ 63 →
    (isPow2Int x = true ↔ 1 < x ∧ bits64 x &&& bits64 (x - 1) = 0) ∧
    (isPow2Int x = true ↔ ∃ k : Nat, 1 ≤ k ∧ k ≤ 62 ∧ x = 2 ^ k)

/-- 41_number_theory.md R135: ISPOW2 completes from every state with 1 for 2^k, k from 1 to 62, and 0 otherwise. -/
def Obligations.Ispow2Decides : Prop :=
  ∀ s : State, ∃ t, exec .ispow2 s = .next t ∧ Succeeded t ∧ UtilityFrame s t ∧ t.gen = s.gen ∧
    ((∃ k : Nat, 1 ≤ k ∧ k ≤ 62 ∧ sint s.opa = 2 ^ k) → ResultsAre t 1 0 0) ∧
    ((¬ ∃ k : Nat, 1 ≤ k ∧ k ≤ 62 ∧ sint s.opa = 2 ^ k) → ResultsAre t 0 0 0)

/-! ### The bit-reversal unit -/

/-- 42_bit_reversal.md R160: brev is the stated sum; bit k becomes bit w - 1 - k; bits at positions from w are ignored;
the result is below 2^w; width 0 gives 0; applied twice it gives v mod 2^w. -/
def Obligations.BrevIsTheReversedSum : Prop :=
  ∀ v w : Nat,
    brev v w = ∑ k ∈ Finset.range w, (v.testBit k).toNat * 2 ^ (w - 1 - k) ∧
    (∀ k < w, (brev v w).testBit (w - 1 - k) = v.testBit k) ∧
    brev (v % 2 ^ w) w = brev v w ∧ brev v w < 2 ^ w ∧ brev v 0 = 0 ∧ brev (brev v w) w = v % 2 ^ w

/-- 42_bit_reversal.md R161: BITREVN with a width up to 64 puts bit w - 1 - k of OPA in bit k of RES0 for k < w and 0
above; a greater width, read unsigned, gives OPERAND_RANGE. -/
def Obligations.BitrevnReversesWord : Prop :=
  ∀ s : State,
    (uint s.opb ≤ 64 → ∃ t, exec .bitrevn s = .next t ∧ Succeeded t ∧ UtilityFrame s t ∧ t.gen = s.gen ∧
      (∀ k < 64, t.res0.getLsbD k = (decide (k < uint s.opb) && s.opa.getLsbD (uint s.opb - 1 - k))) ∧
      t.res1 = 0 ∧ t.res2 = 0) ∧
    (64 < uint s.opb → ∃ t, exec .bitrevn s = .next t ∧ Failed .operandRange t ∧ UtilityFrame s t ∧ t.gen = s.gen ∧
      ResultsAre t 0 0 0)

/-- 42_bit_reversal.md R162: the permutation moves element brev(i, L) to place i, and is its own inverse. -/
def Obligations.BitRevPermuteInvolution : Prop :=
  ∀ (α : Type) [Inhabited α] (xs : List α) (l : Nat), xs.length = 2 ^ l →
    (∀ i < 2 ^ l, (bitRevPermute xs)[i]? = xs[brev i l]?) ∧ bitRevPermute (bitRevPermute xs) = xs

/-- 42_bit_reversal.md R163: BITREV.W with a power-of-two LEN up to N_MAX writes OUT[i] = IN[brev(i, log2 LEN)] for
i < LEN and changes no other byte. -/
def Obligations.BitrevWPermutes : Prop :=
  ∀ s : State, s.mem.wf = true → isPow2 (uint s.len) = true → uint s.len ≤ s.config.nMax →
    ∃ t, exec .bitrevW s = .next t ∧ Succeeded t ∧ VectorFrame (uint s.len) s t ∧
      ∀ i < uint s.len, bankRead .outBank i t = bankRead .inBank (brev i (Nat.log2 (uint s.len))) s

/-- 42_bit_reversal.md R164: BITREV.C does so with elements of two words, moved together. -/
def Obligations.BitrevCPermutesPairs : Prop :=
  ∀ s : State, s.mem.wf = true → isPow2 (uint s.len) = true → uint s.len ≤ s.config.nMax →
    ∃ t, exec .bitrevC s = .next t ∧ Succeeded t ∧ VectorFrame (2 * uint s.len) s t ∧
      ∀ i < uint s.len,
        bankRead .outBank (2 * i) t = bankRead .inBank (2 * brev i (Nat.log2 (uint s.len))) s ∧
        bankRead .outBank (2 * i + 1) t = bankRead .inBank (2 * brev i (Nat.log2 (uint s.len)) + 1) s

/-- 42_bit_reversal.md R163 and R164: LENGTH_NOT_POWER_OF_TWO comes before CAPACITY, and neither changes anything but the
completion flags. -/
def Obligations.BitrevErrors : Prop :=
  ∀ (s : State) (i : Instr), i = .bitrevW ∨ i = .bitrevC →
    ((¬ ∃ k : Nat, 1 ≤ k ∧ uint s.len = 2 ^ k) →
      ∃ t, exec i s = .next t ∧ Failed .lengthNotPowerOfTwo t ∧ NothingElse s t) ∧
    ((∃ k : Nat, 1 ≤ k ∧ uint s.len = 2 ^ k) → s.config.nMax < uint s.len →
      ∃ t, exec i s = .next t ∧ Failed .capacity t ∧ NothingElse s t)

/-! ### The NTT engine -/

/-- 43_transform_engine.md R180: for a prime q and a power of two n up to N_MAX with 2n dividing q - 1, NTT.INIT builds a
sound engine whose ψ has order exactly 2n; only the two NTT tables' words below n change in memory. -/
def Obligations.NttInitBuildsEngine : Prop :=
  ∀ (s : State) (q n : Nat), s.mem.wf = true → q.Prime → sint s.opa = q → sint s.opb = n → isPow2 n = true →
    n ≤ s.config.nMax → (q - 1) % (2 * n) = 0 →
    ∃ t, exec .nttInit s = .next t ∧ Succeeded t ∧ OperandsKept s t ∧ ResultsKept s t ∧ FftKept s t ∧
      t.status.nttReady = true ∧ NttSound t ∧ uint t.ntt.q = q ∧ uint t.ntt.n = n ∧
      orderOf ((uint t.ntt.psi : Nat) : ZMod q) = 2 * n ∧
      (∀ a, ¬ inWords .twnFwd n a → ¬ inWords .twnInv n a → byteAt t a = byteAt s a)

/-- 43_transform_engine.md R180 and 60_exceptions.md R213: the checks of NTT.INIT in their order, and that a failing
INIT leaves no engine and writes no memory. The last part is for every odd q from 5, prime or not: a failing trial gives
NOT_PRIME; when the trials pass, a bad order gives INVALID_ORDER, and otherwise ψ = g^((q - 1)/2n) mod q, for g the first
accepted candidate, gives ROOT_DEGENERATE when ψ^n is not q - 1, and else a sound engine with that ψ (`TrialRun` uses the
model's form of the draws, log entry 5). -/
def Obligations.NttInitChecksInOrder : Prop :=
  ∀ s : State,
    let left (e : ErrorCode) (t : State) : Prop :=
      Failed e t ∧ OperandsKept s t ∧ ResultsKept s t ∧ FftKept s t ∧ MemoryKept s t ∧
      t.status.nttReady = false ∧ t.ntt = NttContext.cleared
    ((¬ ∃ k : Nat, 1 ≤ k ∧ sint s.opb = 2 ^ k) → ∃ t, exec .nttInit s = .next t ∧ left .invalidDegree t) ∧
    ((∃ k : Nat, 1 ≤ k ∧ sint s.opb = 2 ^ k) →
      ((s.config.nMax : Int) < sint s.opb → ∃ t, exec .nttInit s = .next t ∧ left .capacity t) ∧
      (sint s.opb ≤ s.config.nMax → PlainlyComposite (sint s.opa) →
        ∃ t, exec .nttInit s = .next t ∧ left .notPrime t) ∧
      (sint s.opb ≤ s.config.nMax → ∀ q : Nat, q.Prime → sint s.opa = q → ((q : Int) - 1) % (2 * sint s.opb) ≠ 0 →
        ∃ t, exec .nttInit s = .next t ∧ left .invalidOrder t)) ∧
    (∀ q n : Nat, 5 ≤ q → q % 2 = 1 → sint s.opa = q → sint s.opb = n → isPow2 n = true → n ≤ s.config.nMax →
      ∃ t verdict, exec .nttInit s = .next t ∧ TrialRun s.mrTrials.toNat q s.gen verdict t.gen ∧
        (verdict = false → left .notPrime t) ∧
        (verdict = true → (q - 1) % (2 * n) ≠ 0 → left .invalidOrder t) ∧
        (verdict = true → (q - 1) % (2 * n) = 0 → ∃ g, FirstAccepted q g ∧
          let psi := g ^ ((q - 1) / (2 * n)) % q
          (psi ^ n % q ≠ q - 1 → left .rootDegenerate t) ∧
          (psi ^ n % q = q - 1 → s.mem.wf = true →
            Succeeded t ∧ t.status.nttReady = true ∧ NttSound t ∧ uint t.ntt.q = q ∧ uint t.ntt.n = n ∧
            uint t.ntt.psi = psi)))

/-- 43_transform_engine.md R184 item 1: with a sound engine of a prime modulus, NTT.FWD writes the closed form, in
natural order, to OUT words 0 .. n - 1 and changes no other byte. -/
def Obligations.NttForwardClosedForm : Prop :=
  ∀ s : State, s.mem.wf = true → s.status.nttReady = true → NttSound s → (uint s.ntt.q).Prime → s.len = s.ntt.n →
    ∃ t, exec .nttFwd s = .next t ∧ Succeeded t ∧ VectorFrame (uint s.ntt.n) s t ∧
      ∀ k < uint s.ntt.n,
        uint (bankRead .outBank k t) =
          (∑ i ∈ Finset.range (uint s.ntt.n),
            (sint (bankRead .inBank i s) % (uint s.ntt.q : Int)).toNat * uint s.ntt.psi ^ ((2 * k + 1) * i))
            % uint s.ntt.q

/-- 43_transform_engine.md R183: with a sound engine of a prime modulus, NTT.INV writes
n⁻¹ · ψ^-i · Σ a_k · ψ^-2ik mod q to OUT word i, and changes no other byte. -/
def Obligations.NttInverseClosedForm : Prop :=
  ∀ s : State, s.mem.wf = true → s.status.nttReady = true → NttSound s → (uint s.ntt.q).Prime → s.len = s.ntt.n →
    ∃ t, exec .nttInv s = .next t ∧ Succeeded t ∧ VectorFrame (uint s.ntt.n) s t ∧
      ∀ i < uint s.ntt.n,
        uint (bankRead .outBank i t) =
          (uint s.ntt.nInv * uint s.ntt.psiInv ^ i *
            ∑ k ∈ Finset.range (uint s.ntt.n),
              (sint (bankRead .inBank k s) % (uint s.ntt.q : Int)).toNat * uint s.ntt.psiInv ^ (2 * i * k))
            % uint s.ntt.q

/-- 43_transform_engine.md R184 item 2: for IN words in [0, q), the inverse of the forward transform, and the forward of
the inverse, give IN back exactly. `u` is the state after the host copied OUT to IN. Item 3: the inverse of the pointwise
products of two forward transforms is the product of the two inputs in Z_q[x]/(x^n + 1): index sums k count plus, and
index sums k + n count minus. There `u` is the state after the host wrote the products to IN. -/
def Obligations.NttRoundTrip : Prop :=
  (∀ s t u v : State, s.mem.wf = true → u.mem.wf = true → s.status.nttReady = true → u.status.nttReady = true →
    NttSound s → NttSound u → (uint s.ntt.q).Prime → u.ntt = s.ntt → u.config = s.config →
    s.len = s.ntt.n → u.len = s.ntt.n →
    (∀ i < uint s.ntt.n, uint (bankRead .inBank i s) < uint s.ntt.q) →
    (∀ i < uint s.ntt.n, bankRead .inBank i u = bankRead .outBank i t) →
    (exec .nttFwd s = .next t → exec .nttInv u = .next v →
      ∀ i < uint s.ntt.n, bankRead .outBank i v = bankRead .inBank i s) ∧
    (exec .nttInv s = .next t → exec .nttFwd u = .next v →
      ∀ i < uint s.ntt.n, bankRead .outBank i v = bankRead .inBank i s)) ∧
  ∀ a b u ta tb v : State, NttUsable a → NttUsable b → NttUsable u → b.ntt = a.ntt → u.ntt = a.ntt →
    exec .nttFwd a = .next ta → exec .nttFwd b = .next tb → exec .nttInv u = .next v →
    (∀ i < uint a.ntt.n,
      uint (bankRead .inBank i u) = uint (bankRead .outBank i ta) * uint (bankRead .outBank i tb) % uint a.ntt.q) →
    ∀ k < uint a.ntt.n,
      (uint (bankRead .outBank k v) : Int) =
        (∑ i ∈ Finset.range (uint a.ntt.n), ∑ j ∈ Finset.range (uint a.ntt.n),
          (if i + j = k then sint (bankRead .inBank i a) * sint (bankRead .inBank j b)
          else if i + j = k + uint a.ntt.n then -(sint (bankRead .inBank i a) * sint (bankRead .inBank j b))
          else 0)) % (uint a.ntt.q : Int)

/-- 43_transform_engine.md R182, R183, R186, R187: the four transforms check READY first, then LEN; a failing one changes
nothing but the completion flags. -/
def Obligations.TransformChecks : Prop :=
  ∀ s : State,
    (∀ i, i = .nttFwd ∨ i = .nttInv →
      (s.status.nttReady = false → ∃ t, exec i s = .next t ∧ Failed .notReady t ∧ NothingElse s t) ∧
      (s.status.nttReady = true → s.len ≠ s.ntt.n →
        ∃ t, exec i s = .next t ∧ Failed .invalidLength t ∧ NothingElse s t)) ∧
    (∀ i, i = .fftFwd ∨ i = .fftInv →
      (s.status.fftReady = false → ∃ t, exec i s = .next t ∧ Failed .notReady t ∧ NothingElse s t) ∧
      (s.status.fftReady = true → s.len ≠ s.fft.n →
        ∃ t, exec i s = .next t ∧ Failed .invalidLength t ∧ NothingElse s t))

/-! ### The FFT engine -/

/-- 43_transform_engine.md R178 (the 16 printed rows, log entry 15), R181 and R185: for a power of two n up to N_MAX
FFT.INIT builds a sound engine, and each table starts with 1 and its next entry is the one before times the root, and
only the two FFT tables' words below 2n change in memory; a bad degree gives INVALID_DEGREE, then a great one
CAPACITY, and no engine. -/
def Obligations.FftInitBuildsEngine : Prop :=
  let rom : List (Nat × Word × Word × Word × Word) :=
    [(1, 0xBFF0000000000000, 0x0000000000000000, 0xBFF0000000000000, 0x0000000000000000),
      (2, 0x0000000000000000, 0xBFF0000000000000, 0x0000000000000000, 0x3FF0000000000000),
      (3, 0x3FE6A09E667F3BCD, 0xBFE6A09E667F3BCD, 0x3FE6A09E667F3BCD, 0x3FE6A09E667F3BCD),
      (4, 0x3FED906BCF328D46, 0xBFD87DE2A6AEA963, 0x3FED906BCF328D46, 0x3FD87DE2A6AEA963),
      (5, 0x3FEF6297CFF75CB0, 0xBFC8F8B83C69A60B, 0x3FEF6297CFF75CB0, 0x3FC8F8B83C69A60B),
      (6, 0x3FEFD88DA3D12526, 0xBFB917A6BC29B42C, 0x3FEFD88DA3D12526, 0x3FB917A6BC29B42C),
      (7, 0x3FEFF621E3796D7E, 0xBFA91F65F10DD814, 0x3FEFF621E3796D7E, 0x3FA91F65F10DD814),
      (8, 0x3FEFFD886084CD0D, 0xBF992155F7A3667E, 0x3FEFFD886084CD0D, 0x3F992155F7A3667E),
      (9, 0x3FEFFF62169B92DB, 0xBF8921D1FCDEC784, 0x3FEFFF62169B92DB, 0x3F8921D1FCDEC784),
      (10, 0x3FEFFFD8858E8A92, 0xBF7921F0FE670071, 0x3FEFFFD8858E8A92, 0x3F7921F0FE670071),
      (11, 0x3FEFFFF621621D02, 0xBF6921F8BECCA4BA, 0x3FEFFFF621621D02, 0x3F6921F8BECCA4BA),
      (12, 0x3FEFFFFD88586EE6, 0xBF5921FAAEE6472E, 0x3FEFFFFD88586EE6, 0x3F5921FAAEE6472E),
      (13, 0x3FEFFFFF62161A34, 0xBF4921FB2AECB360, 0x3FEFFFFF62161A34, 0x3F4921FB2AECB360),
      (14, 0x3FEFFFFFD8858675, 0xBF3921FB49EE4EA6, 0x3FEFFFFFD8858675, 0x3F3921FB49EE4EA6),
      (15, 0x3FEFFFFFF621619C, 0xBF2921FB51AEB57C, 0x3FEFFFFFF621619C, 0x3F2921FB51AEB57C),
      (16, 0x3FEFFFFFFD885867, 0xBF1921FB539ECF31, 0x3FEFFFFFFD885867, 0x3F1921FB539ECF31)]
  let powersOf (b : Bank) (n : Nat) (w : Cplx) (t : State) : Prop :=
    bankRead b 0 t = 0x3FF0000000000000 ∧ bankRead b 1 t = 0 ∧
    ∀ k, k + 1 < n → (⟨bankRead b (2 * (k + 1)) t, bankRead b (2 * (k + 1) + 1) t⟩ : Cplx) =
      cmul ⟨bankRead b (2 * k) t, bankRead b (2 * k + 1) t⟩ w
  (∀ row ∈ rom, romFwd row.1 = ⟨row.2.1, row.2.2.1⟩ ∧ romInv row.1 = ⟨row.2.2.2.1, row.2.2.2.2⟩) ∧
  ∀ s : State,
    (∀ n : Nat, s.mem.wf = true → sint s.opb = n → isPow2 n = true → n ≤ s.config.nMax →
      ∃ t, exec .fftInit s = .next t ∧ Succeeded t ∧ OperandsKept s t ∧ ResultsKept s t ∧ NttKept s t ∧
        t.gen = s.gen ∧ t.status.fftReady = true ∧ FftSound t ∧ uint t.fft.n = n ∧
        (∀ a, ¬ inWords .twfFwd (2 * n) a → ¬ inWords .twfInv (2 * n) a → byteAt t a = byteAt s a) ∧
        (∀ l fwdRe fwdIm invRe invIm, (l, fwdRe, fwdIm, invRe, invIm) ∈ rom → n = 2 ^ l →
          t.fft.wRe = fwdRe ∧ t.fft.wIm = fwdIm ∧ powersOf .twfFwd n ⟨fwdRe, fwdIm⟩ t ∧
          powersOf .twfInv n ⟨invRe, invIm⟩ t)) ∧
    (∀ e, (e = .invalidDegree ∧ ¬ ∃ k : Nat, 1 ≤ k ∧ sint s.opb = 2 ^ k) ∨
        (e = .capacity ∧ (∃ k : Nat, 1 ≤ k ∧ sint s.opb = 2 ^ k) ∧ (s.config.nMax : Int) < sint s.opb) →
      ∃ t, exec .fftInit s = .next t ∧ Failed e t ∧ OperandsKept s t ∧ ResultsKept s t ∧ NttKept s t ∧
        t.gen = s.gen ∧ MemoryKept s t ∧ t.status.fftReady = false ∧ t.fft = FftContext.cleared)

/-- 43_transform_engine.md R186: FFT.FWD writes the network's output on TWF_FWD, with no pre-twist, to OUT words
0 .. 2n - 1 and changes no other byte. R174 and R177: the butterfly and the complex product, written out. R170 and R175:
with any butterfly, the network with the FFT index on 2^(l + 1) elements is the butterflies, with twiddles 0 .. 2^l - 1,
of the network on the even and the network on the odd elements, each with the even entries of the table; on one element
it is that element. -/
def Obligations.FftForwardRunsNetwork : Prop :=
  (∀ e o w : Cplx,
    let t : Cplx := ⟨fsub (fmul w.re o.re) (fmul w.im o.im), fadd (fmul w.re o.im) (fmul w.im o.re)⟩
    cmul w o = t ∧ bfFft e o w = (⟨fadd e.re t.re, fadd e.im t.im⟩, ⟨fsub e.re t.re, fsub e.im t.im⟩)) ∧
  (∀ (α ω : Type) [Inhabited α] [Inhabited ω] (bf : α → α → ω → α × α) (ws : List ω),
    (∀ x, network bf tidxFft ws [x] = [x]) ∧
    ∀ (l : Nat) (xs : List α), xs.length = 2 ^ (l + 1) →
      let half (b : Nat) := network bf tidxFft (everyOther 0 (2 ^ l) ws) (everyOther b (2 ^ l) xs)
      ∀ k < 2 ^ l,
        let r := bf ((half 0).getD k default) ((half 1).getD k default) (ws.getD k default)
        (network bf tidxFft ws xs)[k]? = some r.1 ∧ (network bf tidxFft ws xs)[k + 2 ^ l]? = some r.2) ∧
  ∀ s : State, s.mem.wf = true → s.status.fftReady = true → s.len = s.fft.n → uint s.fft.n ≤ s.config.nMax →
    ∃ t, exec .fftFwd s = .next t ∧ Succeeded t ∧ VectorFrame (2 * uint s.fft.n) s t ∧
      loadPairs .outBank (uint s.fft.n) t =
        network bfFft tidxFft (loadPairs .twfFwd (uint s.fft.n) s) (loadPairs .inBank (uint s.fft.n) s)

/-- 43_transform_engine.md R187: FFT.INV writes the network's output on TWF_INV, each component divided by n, to OUT
words 0 .. 2n - 1 and changes no other byte. R188: over an exact commutative ring, for ω with ω^(n/2) = -1, the
network with the FFT index on the powers of ω is the discrete Fourier transform, and the network on the powers of the
inverse of ω applied to it gives n times the input. R187: the divisor is the binary64 value n, exact up to 2^16. -/
def Obligations.FftInverseRunsNetwork : Prop :=
  (∀ (R : Type) [CommRing R] [Inhabited R] (w w' : R) (l : Nat) (xs : List R),
    w ^ 2 ^ l = -1 → xs.length = 2 ^ (l + 1) →
    let bf (e o t : R) : R × R := (e + t * o, e - t * o)
    let powers (v : R) : List R := (List.range (2 ^ (l + 1))).map (fun k => v ^ k)
    let ys := network bf tidxFft (powers w) xs
    (∀ k < 2 ^ (l + 1), ys[k]? = some (∑ j ∈ Finset.range (2 ^ (l + 1)), xs.getD j default * w ^ (j * k))) ∧
    (w * w' = 1 → network bf tidxFft (powers w') ys = xs.map (fun x => 2 ^ (l + 1) * x))) ∧
  (∀ n : Nat, n ≤ 2 ^ 16 → finite64 (natF64 n) = true ∧ value64 (natF64 n) = (n : ℚ)) ∧
  ∀ s : State, s.mem.wf = true → s.status.fftReady = true → s.len = s.fft.n → uint s.fft.n ≤ s.config.nMax →
    ∃ t, exec .fftInv s = .next t ∧ Succeeded t ∧ VectorFrame (2 * uint s.fft.n) s t ∧
      loadPairs .outBank (uint s.fft.n) t =
        (network bfFft tidxFft (loadPairs .twfInv (uint s.fft.n) s) (loadPairs .inBank (uint s.fft.n) s)).map
          (fun x => ⟨fdiv x.re (natF64 (uint s.fft.n)), fdiv x.im (natF64 (uint s.fft.n))⟩)

/-- 43_transform_engine.md R176: every operation on finite operands gives the exact result rounded once, to nearest with
ties to even, subnormals kept, and the signs of zero results. A NaN operand gives the canonical NaN in every operation;
infinities. R177: complex multiplication commutes bit for bit. The format, and the behaviour with infinities that R176
does not name, are general knowledge (log entry 14). -/
def Obligations.BinaryArithmeticLaws : Prop :=
  let inf (neg : Bool) : Word := if neg then 0xFFF0000000000000 else 0x7FF0000000000000
  let zero (neg : Bool) : Word := if neg then 0x8000000000000000 else 0x0000000000000000
  let nan : Word := 0x7FF8000000000000
  (∀ a b : Cplx, cmul a b = cmul b a) ∧
  (∀ x y : Word, finite64 x = true → finite64 y = true →
    RoundsTo (value64 x + value64 y) (fadd x y) ∧ RoundsTo (value64 x - value64 y) (fsub x y) ∧
    RoundsTo (value64 x * value64 y) (fmul x y) ∧ (value64 y ≠ 0 → RoundsTo (value64 x / value64 y) (fdiv x y)) ∧
    (value64 x + value64 y = 0 → sign64 (fadd x y) = (sign64 x && sign64 y)) ∧
    (value64 x - value64 y = 0 → sign64 (fsub x y) = (sign64 x && !sign64 y)) ∧
    sign64 (fmul x y) = (sign64 x != sign64 y) ∧
    (value64 y ≠ 0 → sign64 (fdiv x y) = (sign64 x != sign64 y))) ∧
  ∀ x y : Word,
    (f64 x = .nan ∨ f64 y = .nan →
      fadd x y = 0x7FF8000000000000 ∧ fsub x y = 0x7FF8000000000000 ∧ fmul x y = 0x7FF8000000000000 ∧
      fdiv x y = 0x7FF8000000000000) ∧
    (∀ neg m e, f64 x = .fin neg m e → fsub x x = 0) ∧
    (∀ neg, f64 x = .inf neg → fsub x x = 0x7FF8000000000000) ∧
    (∀ neg, f64 x = .inf neg ↔ x = inf neg) ∧
    (∀ neg, f64 x = .inf neg → finite64 y = true →
      fadd x y = inf neg ∧ fadd y x = inf neg ∧ fsub x y = inf neg ∧ fsub y x = inf (!neg) ∧
      (value64 y ≠ 0 → fmul x y = inf (neg != sign64 y) ∧ fmul y x = inf (neg != sign64 y)) ∧
      (value64 y = 0 → fmul x y = nan ∧ fmul y x = nan) ∧
      fdiv x y = inf (neg != sign64 y) ∧ fdiv y x = zero (neg != sign64 y)) ∧
    (∀ neg neg', f64 x = .inf neg → f64 y = .inf neg' →
      fadd x y = (if neg = neg' then inf neg else nan) ∧ fsub x y = (if neg = neg' then nan else inf neg) ∧
      fmul x y = inf (neg != neg') ∧ fdiv x y = nan) ∧
    (finite64 x = true → finite64 y = true → value64 y = 0 →
      fdiv x y = if value64 x = 0 then nan else inf (sign64 x != sign64 y)) ∧
    (∀ neg neg' e, f64 x = .fin neg 0 e → f64 y = .inf neg' → fmul x y = 0x7FF8000000000000) ∧
    (f64 x = .nan ↔ finite64 x = false ∧ x.extractLsb' 0 52 ≠ 0) ∧
    fadd 0x8000000000000000 0x8000000000000000 = 0x8000000000000000

/-! ### The bus -/

/-- 20_memory.md R65: a Read changes no state but for the answer it leaves, and an access of another form than strobe
0xFF at an aligned address gets ERROR with data 0 and has no effect, BUSY or not (R63). That an ill-formed write at
CMD while BUSY = 1 sets no OVERRUN is the model's reading (log entry 9). -/
def Obligations.ReadsAndBadFormsChangeNothing : Prop :=
  (∀ (s : State) (a : BusAddr) (b : BitVec 8),
    ∃ r d, serve (.read a b) s = { s with responses := .read r d :: s.responses }) ∧
  (∀ (s : State) (a : BusAddr) (b : BitVec 8) (v : Word), b ≠ 0xFF ∨ a.toNat % 8 ≠ 0 →
    serve (.read a b) s = { s with responses := .read .error 0 :: s.responses } ∧
    serve (.write a b v) s = { s with responses := .write .error :: s.responses })

/-- 20_memory.md R62: a Read with ERROR returns data 0 and has no effect; a Write with ERROR has no effect, but for the
overrun of a CMD write while BUSY, which sets OVERRUN only. -/
def Obligations.ErrorResponsesHaveNoEffect : Prop :=
  ∀ (s t : State) (x : Transaction), t = serve x s →
    (∀ d, t.responses.head? = some (.read .error d) → d = 0 ∧ t = { s with responses := t.responses }) ∧
    (t.responses.head? = some (.write .error) →
      t = { s with responses := t.responses } ∨
      (s.status.busy = true ∧ x.addr = regAddr .cmd ∧
        t = { s with responses := t.responses, status := { s.status with overrun := true } }))

/-- 20_memory.md R66: what is served while BUSY, and that every other legal access gets ERROR and has no effect. -/
def Obligations.BusyServesFiveRegisters : Prop :=
  ∀ s : State, s.status.busy = true →
    (∀ r, r = .id ∨ r = .cmd ∨ r = .status ∨ r = .ctrl ∨ r = .irq →
      serve (.read (regAddr r) 0xFF) s = { s with responses := .read .okay (readReg s r) :: s.responses }) ∧
    (∀ v r, r = .id ∨ r = .status →
      serve (.write (regAddr r) 0xFF v) s = { s with responses := .write .okay :: s.responses }) ∧
    (∀ v, serve (.write (regAddr .irq) 0xFF v) s =
      { s with irqPend := s.irqPend && !v.getLsbD 0, responses := .write .okay :: s.responses }) ∧
    (∀ v, v.getLsbD 1 = false → serve (.write (regAddr .ctrl) 0xFF v) s =
      { s with irqEn := v.getLsbD 0, responses := .write .okay :: s.responses }) ∧
    (∀ v, v.getLsbD 1 = true → serve (.write (regAddr .ctrl) 0xFF v) s =
      { softReset s with responses := .write .okay :: s.responses }) ∧
    (∀ v, serve (.write (regAddr .cmd) 0xFF v) s =
      { s with status := { s.status with overrun := true }, responses := .write .error :: s.responses }) ∧
    (∀ (a : BusAddr) (v : Word), a.toNat % 8 = 0 → 0x28 ≤ a.toNat →
      serve (.read a 0xFF) s = { s with responses := .read .error 0 :: s.responses } ∧
      serve (.write a 0xFF v) s = { s with responses := .write .error :: s.responses })

/-- 20_memory.md R60 and 10_state.md R41: the six windows, their bases, word addresses and word counts, and that a byte
is mapped when it lies in one of them. 20_memory.md R67: while idle, a valid word of a memory reads as its content; a write to IN or OUT stores the data in
that word and nowhere else; a write to a twiddle table is ignored with OKAY. -/
def Obligations.WindowsReadAndWrite : Prop :=
  (∀ c : Config,
    let n := 2 ^ c.logNMax
    let map : List (Bank × Nat × Nat) :=
      [(.inBank, 0x100000, 2 * n), (.outBank, 0x200000, 2 * n), (.twnFwd, 0x300000, n), (.twnInv, 0x380000, n),
       (.twfFwd, 0x400000, 2 * n), (.twfInv, 0x500000, 2 * n)]
    1 ≤ c.logNMax ∧ c.logNMax ≤ 16 ∧ c.nMax = n ∧
    (∀ row ∈ map, bankBase row.1 = row.2.1 ∧ bankWords c row.1 = row.2.2 ∧
      ∀ k, bankAddr row.1 k = row.2.1 + 8 * k ∧ (k < row.2.2 → (wordAddr row.1 k).toNat = row.2.1 + 8 * k)) ∧
    (∀ b, ∃ row ∈ map, row.1 = b) ∧
    ∀ a, mappedByte c a = true ↔ ∃ row ∈ map, row.2.1 ≤ a ∧ a < row.2.1 + 8 * row.2.2) ∧
  ∀ (s : State) (b : Bank) (k : Nat) (v : Word), s.status.busy = false → k < bankWords s.config b →
    serve (.read (wordAddr b k) 0xFF) s = { s with responses := .read .okay (bankRead b k s) :: s.responses } ∧
    (b = .inBank ∨ b = .outBank → s.mem.wf = true →
      ∃ m, serve (.write (wordAddr b k) 0xFF v) s = { s with mem := m, responses := .write .okay :: s.responses } ∧
        m.wf = true ∧ bankRead b k { s with mem := m } = v ∧
        ∀ a, (a < bankAddr b k ∨ bankAddr b k + 8 ≤ a) → Memory.readByte m a = byteAt s a) ∧
    (b ≠ .inBank → b ≠ .outBank →
      serve (.write (wordAddr b k) 0xFF v) s = { s with responses := .write .okay :: s.responses })

/-- 20_memory.md R64: little-endian, for the words a Read gives and for the words a Write stores: byte lane j is the byte
at the word's address + j. -/
def Obligations.LittleEndianWords : Prop :=
  ∀ (s : State) (b : Bank) (k : Nat), k < bankWords s.config b →
    (∀ j < 8, (bankRead b k s).extractLsb' (8 * j) 8 = byteAt s (bankAddr b k + j)) ∧
    (s.mem.wf = true → ∀ (v : Word), ∀ j < 8,
      byteAt (bankWrite b k v s) (bankAddr b k + j) = v.extractLsb' (8 * j) 8)

/-- 20_memory.md R68 and 10_state.md R36: an unmapped address gets ERROR whether or not BUSY; a reserved register offset
reads 0 and ignores writes while idle, and gets ERROR while BUSY. -/
def Obligations.UnmappedAndReserved : Prop :=
  ∀ (s : State) (a : BusAddr) (v : Word), a.toNat % 8 = 0 →
    (0x010000 ≤ a.toNat → mappedByte s.config a.toNat = false →
      serve (.read a 0xFF) s = { s with responses := .read .error 0 :: s.responses } ∧
      serve (.write a 0xFF v) s = { s with responses := .write .error :: s.responses }) ∧
    (0x0000B0 ≤ a.toNat → a.toNat ≤ 0x00FFF8 →
      (s.status.busy = false →
        serve (.read a 0xFF) s = { s with responses := .read .okay 0 :: s.responses } ∧
        serve (.write a 0xFF v) s = { s with responses := .write .okay :: s.responses }) ∧
      (s.status.busy = true →
        serve (.read a 0xFF) s = { s with responses := .read .error 0 :: s.responses } ∧
        serve (.write a 0xFF v) s = { s with responses := .write .error :: s.responses }))

/-- 10_state.md R20, R24 to R35: the offsets of the register map, and while idle what every register reads as (the words
of ID, STATUS, CTRL and IRQ are given in `IdAndStatusWords`); a write to OPA, OPB, OPC or LEN stores the word there and
nowhere else; a write to a read-only register is ignored. -/
def Obligations.RegisterReadsAndWrites : Prop :=
  (∀ p ∈ [(Reg.id, (0x000 : BusAddr)), (.cmd, 0x008), (.status, 0x010), (.ctrl, 0x018), (.irq, 0x020),
      (.mrTrials, 0x028), (.mrSeed, 0x030), (.opa, 0x038), (.opb, 0x040), (.opc, 0x048), (.len, 0x050), (.res0, 0x058),
      (.res1, 0x060), (.res2, 0x068), (.nttQ, 0x070), (.nttN, 0x078), (.nttPsi, 0x080), (.nttPsiInv, 0x088),
      (.nttNInv, 0x090), (.fftN, 0x098), (.fftWRe, 0x0A0), (.fftWIm, 0x0A8)], regAddr p.1 = p.2) ∧
  ∀ (s : State) (v : Word), s.status.busy = false →
    (∀ p ∈ [((0x000 : BusAddr), readReg s .id), (0x008, s.cmd), (0x010, readReg s .status), (0x018, readReg s .ctrl),
        (0x020, readReg s .irq), (0x028, s.mrTrials.setWidth 64), (0x030, s.mrSeed), (0x038, s.opa), (0x040, s.opb),
        (0x048, s.opc), (0x050, s.len), (0x058, s.res0), (0x060, s.res1), (0x068, s.res2), (0x070, s.ntt.q),
        (0x078, s.ntt.n), (0x080, s.ntt.psi), (0x088, s.ntt.psiInv), (0x090, s.ntt.nInv), (0x098, s.fft.n),
        (0x0A0, s.fft.wRe), (0x0A8, s.fft.wIm)],
      serve (.read p.1 0xFF) s = { s with responses := .read .okay p.2 :: s.responses }) ∧
    serve (.write (regAddr .opa) 0xFF v) s = { s with opa := v, responses := .write .okay :: s.responses } ∧
    serve (.write (regAddr .opb) 0xFF v) s = { s with opb := v, responses := .write .okay :: s.responses } ∧
    serve (.write (regAddr .opc) 0xFF v) s = { s with opc := v, responses := .write .okay :: s.responses } ∧
    serve (.write (regAddr .len) 0xFF v) s = { s with len := v, responses := .write .okay :: s.responses } ∧
    (∀ r, r ∉ [Reg.cmd, .ctrl, .irq, .mrTrials, .mrSeed, .opa, .opb, .opc, .len] →
      serve (.write (regAddr r) 0xFF v) s = { s with responses := .write .okay :: s.responses })

/-- 10_state.md R28: MR_TRIALS after reset, what a write stores, that a write whose bits [31:0] are 0 changes nothing,
that the reserved bits read 0, that both accesses are blocked while BUSY, and that 0 is never read back. -/
def Obligations.MrTrialsRegister : Prop :=
  readReg State.reset .mrTrials = 1000 ∧
  (∀ (s : State) (v : Word), s.status.busy = false →
    (v.toNat % 2 ^ 32 = 0 →
      serve (.write (regAddr .mrTrials) 0xFF v) s = { s with responses := .write .okay :: s.responses }) ∧
    (v.toNat % 2 ^ 32 ≠ 0 → ∃ t, serve (.write (regAddr .mrTrials) 0xFF v) s = t ∧
      uint (readReg t .mrTrials) = v.toNat % 2 ^ 32 ∧
      t = { s with mrTrials := t.mrTrials, responses := .write .okay :: s.responses })) ∧
  (∀ (s : State) (v : Word), s.status.busy = true →
    serve (.read (regAddr .mrTrials) 0xFF) s = { s with responses := .read .error 0 :: s.responses } ∧
    serve (.write (regAddr .mrTrials) 0xFF v) s = { s with responses := .write .error :: s.responses }) ∧
  (∀ s t : State, readReg s .mrTrials ≠ 0 → step s = .next t → readReg t .mrTrials ≠ 0)

/-- 10_state.md R29: a write to MR_SEED stores the value and reseeds the generator, a read gives the last value
written, reset seeds with 0, and both accesses are blocked while BUSY; so two runs of one of the four commands that
draw, each after writing the same seed, with the same OPA, OPB, MR_TRIALS and build, agree in the error code, the
results, the NTT registers and the generator (the generator as a function of seed and draws is the model's form, log
entry 5). -/
def Obligations.MrSeedReseeds : Prop :=
  State.reset.mrSeed = 0 ∧ State.reset.gen = WitnessGen.seeded 0 ∧
  (∀ (s : State) (v : Word), s.status.busy = false →
    serve (.write (regAddr .mrSeed) 0xFF v) s =
      { s with mrSeed := v, gen := WitnessGen.seeded v, responses := .write .okay :: s.responses } ∧
    serve (.read (regAddr .mrSeed) 0xFF) s = { s with responses := .read .okay s.mrSeed :: s.responses }) ∧
  (∀ (s : State) (v : Word), s.status.busy = true →
    serve (.read (regAddr .mrSeed) 0xFF) s = { s with responses := .read .error 0 :: s.responses } ∧
    serve (.write (regAddr .mrSeed) 0xFF v) s = { s with responses := .write .error :: s.responses }) ∧
  (∀ (i : Instr) (s s' t t' : State) (v : Word), drawsWitnesses i = true →
    s.status.busy = false → s'.status.busy = false →
    s.config = s'.config → s.opa = s'.opa → s.opb = s'.opb → s.mrTrials = s'.mrTrials →
    exec i (serve (.write (regAddr .mrSeed) 0xFF v) s) = .next t →
    exec i (serve (.write (regAddr .mrSeed) 0xFF v) s') = .next t' →
    t.gen = t'.gen ∧ t.status.errcode = t'.status.errcode ∧
    (isUtility i = true → ResultsAre t t'.res0 t'.res1 t'.res2) ∧ (i = .nttInit → t.ntt = t'.ntt))

/-- 10_state.md R24, R26, R27 and R30: the fields of the ID, STATUS, CTRL and IRQ words, with the reserved bits 0, and
the reference build's ID. -/
def Obligations.IdAndStatusWords : Prop :=
  readReg State.reset .id = 0x4E54544201000C03 ∧
  ∀ s : State,
    (readReg s .id).extractLsb' 32 32 = 0x4E545442 ∧ (readReg s .id).extractLsb' 24 8 = 0x01 ∧
    (readReg s .id).extractLsb' 16 8 = 0x00 ∧ ((readReg s .id).extractLsb' 8 8).toNat = s.config.logNMax ∧
    (readReg s .id).extractLsb' 0 8 = 0x03 ∧
    (readReg s .status).getLsbD 0 = s.status.busy ∧ (readReg s .status).getLsbD 1 = s.status.done ∧
    (readReg s .status).getLsbD 2 = s.status.err ∧ (readReg s .status).getLsbD 3 = s.status.overrun ∧
    (readReg s .status).getLsbD 4 = s.status.nttReady ∧ (readReg s .status).getLsbD 5 = s.status.fftReady ∧
    (readReg s .status).extractLsb' 6 2 = 0 ∧ (readReg s .status).extractLsb' 8 8 = s.status.errcode ∧
    (readReg s .status).extractLsb' 16 48 = 0 ∧
    (readReg s .ctrl).getLsbD 0 = s.irqEn ∧ (readReg s .ctrl).extractLsb' 1 63 = 0 ∧
    (readReg s .irq).getLsbD 0 = s.irqPend ∧ (readReg s .irq).extractLsb' 1 63 = 0

/-- 60_exceptions.md R220 and 10_state.md R30: irq is PEND and IRQ_EN; every completion sets PEND and nothing else does;
writing 1 to IRQ bit 0 clears it and writing 0 leaves it; IRQ_EN masks the line without changing PEND. -/
def Obligations.InterruptLine : Prop :=
  (∀ s : State, irqLine s = (s.irqPend && s.irqEn)) ∧
  (∀ s t : State, s.status.busy = true → runEngine s = .next t → t.irqPend = true) ∧
  (∀ s t : State, step s = .next t → t.irqPend = true →
    s.irqPend = true ∨ (s.status.busy = true ∧ t.status.busy = false ∧ t.status.done = true)) ∧
  (∀ (s : State) (v : Word), serve (.write (regAddr .irq) 0xFF v) s =
    { s with irqPend := s.irqPend && !v.getLsbD 0, responses := .write .okay :: s.responses }) ∧
  (∀ (s : State) (v : Word), v.getLsbD 1 = false → serve (.write (regAddr .ctrl) 0xFF v) s =
    { s with irqEn := v.getLsbD 0, responses := .write .okay :: s.responses })

/-! ### Reset -/

/-- 70_reset_and_hazards.md R241: a write to CTRL with bit 1 set, BUSY or not, gives every register and the generator its
reset value, drops the command in flight, and keeps the memories (the answer and the
events still to come stay, log entry 11). -/
def Obligations.SoftResetState : Prop :=
  ∀ (s : State) (v : Word), v.getLsbD 1 = true →
    ∃ t, serve (.write (regAddr .ctrl) 0xFF v) s = t ∧
      t.responses = .write .okay :: s.responses ∧ t.mem = s.mem ∧
      t.status.busy = false ∧ t.gen = WitnessGen.seeded 0 ∧ irqLine t = false ∧
      readReg t .id = readReg s .id ∧ readReg t .mrTrials = 1000 ∧
      ∀ r, r ≠ .id → r ≠ .mrTrials → readReg t r = 0

/-- 70_reset_and_hazards.md R240 and R242: the power-on event gives every register and the generator its reset value,
drops the command in flight, and the memories hold the contents they come up with (any contents; the event is
the model's own, log entries 6 and 11). -/
def Obligations.PowerOnState : Prop :=
  ∀ (s : State) (c : List Host.Cell) (rest : List Event), s.schedule = .powerOn c :: rest →
    Memory.wf c = true → (∀ x ∈ c, mappedByte s.config x.1 = true) →
    ∃ t, step s = .next t ∧ t.mem = c ∧ t.config = s.config ∧ t.schedule = rest ∧
      t.status.busy = false ∧ t.gen = WitnessGen.seeded 0 ∧ irqLine t = false ∧
      readReg t .id = readReg s .id ∧ readReg t .mrTrials = 1000 ∧
      ∀ r, r ≠ .id → r ≠ .mrTrials → readReg t r = 0

/-- 70_reset_and_hazards.md R240 and R243: the registers of State.reset; nothing is in flight and irq is low. -/
def Obligations.ResetState : Prop :=
  readReg State.reset .mrTrials = 1000 ∧ State.reset.gen = WitnessGen.seeded 0 ∧ irqLine State.reset = false ∧
  State.reset.status.busy = false ∧ ∀ r, r ≠ .id → r ≠ .mrTrials → readReg State.reset r = 0

/-! ### Invariants and whole-machine rules -/

/-- State.reset meets the invariants; its build and its empty memory are the model's choices (log entries 1 and 6). -/
def Obligations.ResetMeetsInvariants : Prop := BaseInv State.reset ∧ ContextInv State.reset

/-- 10_state.md R26, R28, R29, 60_exceptions.md R211, 20_memory.md R60: every step keeps the flags consistent, ERRCODE
one of the listed values, the memory canonical and inside the windows, MR_TRIALS above 0 and the generator on its seed;
and no step changes the build (the build in the state is the model's choice, log entry 1). -/
def Obligations.StepKeepsBaseInv : Prop :=
  ∀ s t : State, BaseInv s → step s = .next t → BaseInv t ∧ t.config = s.config

/-- 10_state.md R34, R35, R40: every step keeps each context either sound, with its tables of powers, or not ready with
its registers 0. -/
def Obligations.StepKeepsContextInv : Prop :=
  ∀ s t : State, BaseInv s → ContextInv s → step s = .next t → ContextInv t

/-- 20_memory.md R66: no host transaction changes what a running command uses: while the command stays in
flight, the memories, the operands, the results, the contexts and the generator are unchanged; and the memories are
unchanged even when a soft reset ends it. -/
def Obligations.HostCannotDisturbCommand : Prop :=
  ∀ (s : State) (x : Transaction) (rest : List Event), s.status.busy = true → s.schedule = .host x :: rest →
    ∃ t, step s = .next t ∧ t.mem = s.mem ∧
      (t.status.busy = true →
        t.cmd = s.cmd ∧ t.opa = s.opa ∧ t.opb = s.opb ∧ t.opc = s.opc ∧ t.len = s.len ∧ t.mrTrials = s.mrTrials ∧
        t.mrSeed = s.mrSeed ∧ t.gen = s.gen ∧ ResultsKept s t ∧ NttKept s t ∧ FftKept s t)
end

