-- ==== Sys2Proof/Laws/State.lean ====
section
/-! SUPPORT. One lemma per field per update of State, so that no proof unfolds a record update. -/

namespace Sys2Proof.Machine

/-! ### accept -/

@[simp] theorem accept_config (c : Word) (s : State) : (accept c s).config = s.config := rfl
@[simp] theorem accept_cmd (c : Word) (s : State) : (accept c s).cmd = c := rfl
@[simp] theorem accept_status (c : Word) (s : State) : (accept c s).status = s.status.accepted := rfl
@[simp] theorem accept_irqEn (c : Word) (s : State) : (accept c s).irqEn = s.irqEn := rfl
@[simp] theorem accept_irqPend (c : Word) (s : State) : (accept c s).irqPend = s.irqPend := rfl
@[simp] theorem accept_mrTrials (c : Word) (s : State) : (accept c s).mrTrials = s.mrTrials := rfl
@[simp] theorem accept_mrSeed (c : Word) (s : State) : (accept c s).mrSeed = s.mrSeed := rfl
@[simp] theorem accept_gen (c : Word) (s : State) : (accept c s).gen = s.gen := rfl
@[simp] theorem accept_opa (c : Word) (s : State) : (accept c s).opa = s.opa := rfl
@[simp] theorem accept_opb (c : Word) (s : State) : (accept c s).opb = s.opb := rfl
@[simp] theorem accept_opc (c : Word) (s : State) : (accept c s).opc = s.opc := rfl
@[simp] theorem accept_len (c : Word) (s : State) : (accept c s).len = s.len := rfl
@[simp] theorem accept_res0 (c : Word) (s : State) : (accept c s).res0 = s.res0 := rfl
@[simp] theorem accept_res1 (c : Word) (s : State) : (accept c s).res1 = s.res1 := rfl
@[simp] theorem accept_res2 (c : Word) (s : State) : (accept c s).res2 = s.res2 := rfl
@[simp] theorem accept_ntt (c : Word) (s : State) : (accept c s).ntt = s.ntt := rfl
@[simp] theorem accept_fft (c : Word) (s : State) : (accept c s).fft = s.fft := rfl
@[simp] theorem accept_mem (c : Word) (s : State) : (accept c s).mem = s.mem := rfl
@[simp] theorem accept_schedule (c : Word) (s : State) : (accept c s).schedule = s.schedule := rfl
@[simp] theorem accept_responses (c : Word) (s : State) : (accept c s).responses = s.responses := rfl

/-! ### complete -/

@[simp] theorem complete_config (e : BitVec 8) (s : State) : (complete e s).config = s.config := rfl
@[simp] theorem complete_cmd (e : BitVec 8) (s : State) : (complete e s).cmd = s.cmd := rfl
@[simp] theorem complete_status (e : BitVec 8) (s : State) : (complete e s).status = s.status.completed e := rfl
@[simp] theorem complete_irqEn (e : BitVec 8) (s : State) : (complete e s).irqEn = s.irqEn := rfl
@[simp] theorem complete_irqPend (e : BitVec 8) (s : State) : (complete e s).irqPend = true := rfl
@[simp] theorem complete_mrTrials (e : BitVec 8) (s : State) : (complete e s).mrTrials = s.mrTrials := rfl
@[simp] theorem complete_mrSeed (e : BitVec 8) (s : State) : (complete e s).mrSeed = s.mrSeed := rfl
@[simp] theorem complete_gen (e : BitVec 8) (s : State) : (complete e s).gen = s.gen := rfl
@[simp] theorem complete_opa (e : BitVec 8) (s : State) : (complete e s).opa = s.opa := rfl
@[simp] theorem complete_opb (e : BitVec 8) (s : State) : (complete e s).opb = s.opb := rfl
@[simp] theorem complete_opc (e : BitVec 8) (s : State) : (complete e s).opc = s.opc := rfl
@[simp] theorem complete_len (e : BitVec 8) (s : State) : (complete e s).len = s.len := rfl
@[simp] theorem complete_res0 (e : BitVec 8) (s : State) : (complete e s).res0 = s.res0 := rfl
@[simp] theorem complete_res1 (e : BitVec 8) (s : State) : (complete e s).res1 = s.res1 := rfl
@[simp] theorem complete_res2 (e : BitVec 8) (s : State) : (complete e s).res2 = s.res2 := rfl
@[simp] theorem complete_ntt (e : BitVec 8) (s : State) : (complete e s).ntt = s.ntt := rfl
@[simp] theorem complete_fft (e : BitVec 8) (s : State) : (complete e s).fft = s.fft := rfl
@[simp] theorem complete_mem (e : BitVec 8) (s : State) : (complete e s).mem = s.mem := rfl
@[simp] theorem complete_schedule (e : BitVec 8) (s : State) : (complete e s).schedule = s.schedule := rfl
@[simp] theorem complete_responses (e : BitVec 8) (s : State) : (complete e s).responses = s.responses := rfl

/-! ### setResults -/

@[simp] theorem setResults_config (a b c : Word) (s : State) : (setResults a b c s).config = s.config := rfl
@[simp] theorem setResults_cmd (a b c : Word) (s : State) : (setResults a b c s).cmd = s.cmd := rfl
@[simp] theorem setResults_status (a b c : Word) (s : State) : (setResults a b c s).status = s.status := rfl
@[simp] theorem setResults_irqEn (a b c : Word) (s : State) : (setResults a b c s).irqEn = s.irqEn := rfl
@[simp] theorem setResults_irqPend (a b c : Word) (s : State) : (setResults a b c s).irqPend = s.irqPend := rfl
@[simp] theorem setResults_mrTrials (a b c : Word) (s : State) : (setResults a b c s).mrTrials = s.mrTrials := rfl
@[simp] theorem setResults_mrSeed (a b c : Word) (s : State) : (setResults a b c s).mrSeed = s.mrSeed := rfl
@[simp] theorem setResults_gen (a b c : Word) (s : State) : (setResults a b c s).gen = s.gen := rfl
@[simp] theorem setResults_opa (a b c : Word) (s : State) : (setResults a b c s).opa = s.opa := rfl
@[simp] theorem setResults_opb (a b c : Word) (s : State) : (setResults a b c s).opb = s.opb := rfl
@[simp] theorem setResults_opc (a b c : Word) (s : State) : (setResults a b c s).opc = s.opc := rfl
@[simp] theorem setResults_len (a b c : Word) (s : State) : (setResults a b c s).len = s.len := rfl
@[simp] theorem setResults_res0 (a b c : Word) (s : State) : (setResults a b c s).res0 = a := rfl
@[simp] theorem setResults_res1 (a b c : Word) (s : State) : (setResults a b c s).res1 = b := rfl
@[simp] theorem setResults_res2 (a b c : Word) (s : State) : (setResults a b c s).res2 = c := rfl
@[simp] theorem setResults_ntt (a b c : Word) (s : State) : (setResults a b c s).ntt = s.ntt := rfl
@[simp] theorem setResults_fft (a b c : Word) (s : State) : (setResults a b c s).fft = s.fft := rfl
@[simp] theorem setResults_mem (a b c : Word) (s : State) : (setResults a b c s).mem = s.mem := rfl
@[simp] theorem setResults_schedule (a b c : Word) (s : State) : (setResults a b c s).schedule = s.schedule := rfl
@[simp] theorem setResults_responses (a b c : Word) (s : State) : (setResults a b c s).responses = s.responses := rfl

/-! ### clearResults -/

@[simp] theorem clearResults_config (s : State) : (clearResults s).config = s.config := rfl
@[simp] theorem clearResults_cmd (s : State) : (clearResults s).cmd = s.cmd := rfl
@[simp] theorem clearResults_status (s : State) : (clearResults s).status = s.status := rfl
@[simp] theorem clearResults_irqEn (s : State) : (clearResults s).irqEn = s.irqEn := rfl
@[simp] theorem clearResults_irqPend (s : State) : (clearResults s).irqPend = s.irqPend := rfl
@[simp] theorem clearResults_mrTrials (s : State) : (clearResults s).mrTrials = s.mrTrials := rfl
@[simp] theorem clearResults_mrSeed (s : State) : (clearResults s).mrSeed = s.mrSeed := rfl
@[simp] theorem clearResults_gen (s : State) : (clearResults s).gen = s.gen := rfl
@[simp] theorem clearResults_opa (s : State) : (clearResults s).opa = s.opa := rfl
@[simp] theorem clearResults_opb (s : State) : (clearResults s).opb = s.opb := rfl
@[simp] theorem clearResults_opc (s : State) : (clearResults s).opc = s.opc := rfl
@[simp] theorem clearResults_len (s : State) : (clearResults s).len = s.len := rfl
@[simp] theorem clearResults_res0 (s : State) : (clearResults s).res0 = 0 := rfl
@[simp] theorem clearResults_res1 (s : State) : (clearResults s).res1 = 0 := rfl
@[simp] theorem clearResults_res2 (s : State) : (clearResults s).res2 = 0 := rfl
@[simp] theorem clearResults_ntt (s : State) : (clearResults s).ntt = s.ntt := rfl
@[simp] theorem clearResults_fft (s : State) : (clearResults s).fft = s.fft := rfl
@[simp] theorem clearResults_mem (s : State) : (clearResults s).mem = s.mem := rfl
@[simp] theorem clearResults_schedule (s : State) : (clearResults s).schedule = s.schedule := rfl
@[simp] theorem clearResults_responses (s : State) : (clearResults s).responses = s.responses := rfl

/-! ### setGen -/

@[simp] theorem setGen_config (g : WitnessGen) (s : State) : (setGen g s).config = s.config := rfl
@[simp] theorem setGen_cmd (g : WitnessGen) (s : State) : (setGen g s).cmd = s.cmd := rfl
@[simp] theorem setGen_status (g : WitnessGen) (s : State) : (setGen g s).status = s.status := rfl
@[simp] theorem setGen_irqEn (g : WitnessGen) (s : State) : (setGen g s).irqEn = s.irqEn := rfl
@[simp] theorem setGen_irqPend (g : WitnessGen) (s : State) : (setGen g s).irqPend = s.irqPend := rfl
@[simp] theorem setGen_mrTrials (g : WitnessGen) (s : State) : (setGen g s).mrTrials = s.mrTrials := rfl
@[simp] theorem setGen_mrSeed (g : WitnessGen) (s : State) : (setGen g s).mrSeed = s.mrSeed := rfl
@[simp] theorem setGen_gen (g : WitnessGen) (s : State) : (setGen g s).gen = g := rfl
@[simp] theorem setGen_opa (g : WitnessGen) (s : State) : (setGen g s).opa = s.opa := rfl
@[simp] theorem setGen_opb (g : WitnessGen) (s : State) : (setGen g s).opb = s.opb := rfl
@[simp] theorem setGen_opc (g : WitnessGen) (s : State) : (setGen g s).opc = s.opc := rfl
@[simp] theorem setGen_len (g : WitnessGen) (s : State) : (setGen g s).len = s.len := rfl
@[simp] theorem setGen_res0 (g : WitnessGen) (s : State) : (setGen g s).res0 = s.res0 := rfl
@[simp] theorem setGen_res1 (g : WitnessGen) (s : State) : (setGen g s).res1 = s.res1 := rfl
@[simp] theorem setGen_res2 (g : WitnessGen) (s : State) : (setGen g s).res2 = s.res2 := rfl
@[simp] theorem setGen_ntt (g : WitnessGen) (s : State) : (setGen g s).ntt = s.ntt := rfl
@[simp] theorem setGen_fft (g : WitnessGen) (s : State) : (setGen g s).fft = s.fft := rfl
@[simp] theorem setGen_mem (g : WitnessGen) (s : State) : (setGen g s).mem = s.mem := rfl
@[simp] theorem setGen_schedule (g : WitnessGen) (s : State) : (setGen g s).schedule = s.schedule := rfl
@[simp] theorem setGen_responses (g : WitnessGen) (s : State) : (setGen g s).responses = s.responses := rfl

/-! ### releaseNtt -/

@[simp] theorem releaseNtt_config (s : State) : (releaseNtt s).config = s.config := rfl
@[simp] theorem releaseNtt_cmd (s : State) : (releaseNtt s).cmd = s.cmd := rfl
@[simp] theorem releaseNtt_status (s : State) : (releaseNtt s).status = { s.status with nttReady := false } := rfl
@[simp] theorem releaseNtt_irqEn (s : State) : (releaseNtt s).irqEn = s.irqEn := rfl
@[simp] theorem releaseNtt_irqPend (s : State) : (releaseNtt s).irqPend = s.irqPend := rfl
@[simp] theorem releaseNtt_mrTrials (s : State) : (releaseNtt s).mrTrials = s.mrTrials := rfl
@[simp] theorem releaseNtt_mrSeed (s : State) : (releaseNtt s).mrSeed = s.mrSeed := rfl
@[simp] theorem releaseNtt_gen (s : State) : (releaseNtt s).gen = s.gen := rfl
@[simp] theorem releaseNtt_opa (s : State) : (releaseNtt s).opa = s.opa := rfl
@[simp] theorem releaseNtt_opb (s : State) : (releaseNtt s).opb = s.opb := rfl
@[simp] theorem releaseNtt_opc (s : State) : (releaseNtt s).opc = s.opc := rfl
@[simp] theorem releaseNtt_len (s : State) : (releaseNtt s).len = s.len := rfl
@[simp] theorem releaseNtt_res0 (s : State) : (releaseNtt s).res0 = s.res0 := rfl
@[simp] theorem releaseNtt_res1 (s : State) : (releaseNtt s).res1 = s.res1 := rfl
@[simp] theorem releaseNtt_res2 (s : State) : (releaseNtt s).res2 = s.res2 := rfl
@[simp] theorem releaseNtt_ntt (s : State) : (releaseNtt s).ntt = NttContext.cleared := rfl
@[simp] theorem releaseNtt_fft (s : State) : (releaseNtt s).fft = s.fft := rfl
@[simp] theorem releaseNtt_mem (s : State) : (releaseNtt s).mem = s.mem := rfl
@[simp] theorem releaseNtt_schedule (s : State) : (releaseNtt s).schedule = s.schedule := rfl
@[simp] theorem releaseNtt_responses (s : State) : (releaseNtt s).responses = s.responses := rfl

/-! ### releaseFft -/

@[simp] theorem releaseFft_config (s : State) : (releaseFft s).config = s.config := rfl
@[simp] theorem releaseFft_cmd (s : State) : (releaseFft s).cmd = s.cmd := rfl
@[simp] theorem releaseFft_status (s : State) : (releaseFft s).status = { s.status with fftReady := false } := rfl
@[simp] theorem releaseFft_irqEn (s : State) : (releaseFft s).irqEn = s.irqEn := rfl
@[simp] theorem releaseFft_irqPend (s : State) : (releaseFft s).irqPend = s.irqPend := rfl
@[simp] theorem releaseFft_mrTrials (s : State) : (releaseFft s).mrTrials = s.mrTrials := rfl
@[simp] theorem releaseFft_mrSeed (s : State) : (releaseFft s).mrSeed = s.mrSeed := rfl
@[simp] theorem releaseFft_gen (s : State) : (releaseFft s).gen = s.gen := rfl
@[simp] theorem releaseFft_opa (s : State) : (releaseFft s).opa = s.opa := rfl
@[simp] theorem releaseFft_opb (s : State) : (releaseFft s).opb = s.opb := rfl
@[simp] theorem releaseFft_opc (s : State) : (releaseFft s).opc = s.opc := rfl
@[simp] theorem releaseFft_len (s : State) : (releaseFft s).len = s.len := rfl
@[simp] theorem releaseFft_res0 (s : State) : (releaseFft s).res0 = s.res0 := rfl
@[simp] theorem releaseFft_res1 (s : State) : (releaseFft s).res1 = s.res1 := rfl
@[simp] theorem releaseFft_res2 (s : State) : (releaseFft s).res2 = s.res2 := rfl
@[simp] theorem releaseFft_ntt (s : State) : (releaseFft s).ntt = s.ntt := rfl
@[simp] theorem releaseFft_fft (s : State) : (releaseFft s).fft = FftContext.cleared := rfl
@[simp] theorem releaseFft_mem (s : State) : (releaseFft s).mem = s.mem := rfl
@[simp] theorem releaseFft_schedule (s : State) : (releaseFft s).schedule = s.schedule := rfl
@[simp] theorem releaseFft_responses (s : State) : (releaseFft s).responses = s.responses := rfl

/-! ### installNtt -/

@[simp] theorem installNtt_config (c : NttContext) (s : State) : (installNtt c s).config = s.config := rfl
@[simp] theorem installNtt_cmd (c : NttContext) (s : State) : (installNtt c s).cmd = s.cmd := rfl
@[simp] theorem installNtt_status (c : NttContext) (s : State) : (installNtt c s).status = { s.status with nttReady := true } := rfl
@[simp] theorem installNtt_irqEn (c : NttContext) (s : State) : (installNtt c s).irqEn = s.irqEn := rfl
@[simp] theorem installNtt_irqPend (c : NttContext) (s : State) : (installNtt c s).irqPend = s.irqPend := rfl
@[simp] theorem installNtt_mrTrials (c : NttContext) (s : State) : (installNtt c s).mrTrials = s.mrTrials := rfl
@[simp] theorem installNtt_mrSeed (c : NttContext) (s : State) : (installNtt c s).mrSeed = s.mrSeed := rfl
@[simp] theorem installNtt_gen (c : NttContext) (s : State) : (installNtt c s).gen = s.gen := rfl
@[simp] theorem installNtt_opa (c : NttContext) (s : State) : (installNtt c s).opa = s.opa := rfl
@[simp] theorem installNtt_opb (c : NttContext) (s : State) : (installNtt c s).opb = s.opb := rfl
@[simp] theorem installNtt_opc (c : NttContext) (s : State) : (installNtt c s).opc = s.opc := rfl
@[simp] theorem installNtt_len (c : NttContext) (s : State) : (installNtt c s).len = s.len := rfl
@[simp] theorem installNtt_res0 (c : NttContext) (s : State) : (installNtt c s).res0 = s.res0 := rfl
@[simp] theorem installNtt_res1 (c : NttContext) (s : State) : (installNtt c s).res1 = s.res1 := rfl
@[simp] theorem installNtt_res2 (c : NttContext) (s : State) : (installNtt c s).res2 = s.res2 := rfl
@[simp] theorem installNtt_ntt (c : NttContext) (s : State) : (installNtt c s).ntt = c := rfl
@[simp] theorem installNtt_fft (c : NttContext) (s : State) : (installNtt c s).fft = s.fft := rfl
@[simp] theorem installNtt_mem (c : NttContext) (s : State) : (installNtt c s).mem = s.mem := rfl
@[simp] theorem installNtt_schedule (c : NttContext) (s : State) : (installNtt c s).schedule = s.schedule := rfl
@[simp] theorem installNtt_responses (c : NttContext) (s : State) : (installNtt c s).responses = s.responses := rfl

/-! ### installFft -/

@[simp] theorem installFft_config (c : FftContext) (s : State) : (installFft c s).config = s.config := rfl
@[simp] theorem installFft_cmd (c : FftContext) (s : State) : (installFft c s).cmd = s.cmd := rfl
@[simp] theorem installFft_status (c : FftContext) (s : State) : (installFft c s).status = { s.status with fftReady := true } := rfl
@[simp] theorem installFft_irqEn (c : FftContext) (s : State) : (installFft c s).irqEn = s.irqEn := rfl
@[simp] theorem installFft_irqPend (c : FftContext) (s : State) : (installFft c s).irqPend = s.irqPend := rfl
@[simp] theorem installFft_mrTrials (c : FftContext) (s : State) : (installFft c s).mrTrials = s.mrTrials := rfl
@[simp] theorem installFft_mrSeed (c : FftContext) (s : State) : (installFft c s).mrSeed = s.mrSeed := rfl
@[simp] theorem installFft_gen (c : FftContext) (s : State) : (installFft c s).gen = s.gen := rfl
@[simp] theorem installFft_opa (c : FftContext) (s : State) : (installFft c s).opa = s.opa := rfl
@[simp] theorem installFft_opb (c : FftContext) (s : State) : (installFft c s).opb = s.opb := rfl
@[simp] theorem installFft_opc (c : FftContext) (s : State) : (installFft c s).opc = s.opc := rfl
@[simp] theorem installFft_len (c : FftContext) (s : State) : (installFft c s).len = s.len := rfl
@[simp] theorem installFft_res0 (c : FftContext) (s : State) : (installFft c s).res0 = s.res0 := rfl
@[simp] theorem installFft_res1 (c : FftContext) (s : State) : (installFft c s).res1 = s.res1 := rfl
@[simp] theorem installFft_res2 (c : FftContext) (s : State) : (installFft c s).res2 = s.res2 := rfl
@[simp] theorem installFft_ntt (c : FftContext) (s : State) : (installFft c s).ntt = s.ntt := rfl
@[simp] theorem installFft_fft (c : FftContext) (s : State) : (installFft c s).fft = c := rfl
@[simp] theorem installFft_mem (c : FftContext) (s : State) : (installFft c s).mem = s.mem := rfl
@[simp] theorem installFft_schedule (c : FftContext) (s : State) : (installFft c s).schedule = s.schedule := rfl
@[simp] theorem installFft_responses (c : FftContext) (s : State) : (installFft c s).responses = s.responses := rfl

/-! ### acknowledge -/

@[simp] theorem acknowledge_config (s : State) : (acknowledge s).config = s.config := rfl
@[simp] theorem acknowledge_cmd (s : State) : (acknowledge s).cmd = s.cmd := rfl
@[simp] theorem acknowledge_status (s : State) : (acknowledge s).status = s.status := rfl
@[simp] theorem acknowledge_irqEn (s : State) : (acknowledge s).irqEn = s.irqEn := rfl
@[simp] theorem acknowledge_irqPend (s : State) : (acknowledge s).irqPend = false := rfl
@[simp] theorem acknowledge_mrTrials (s : State) : (acknowledge s).mrTrials = s.mrTrials := rfl
@[simp] theorem acknowledge_mrSeed (s : State) : (acknowledge s).mrSeed = s.mrSeed := rfl
@[simp] theorem acknowledge_gen (s : State) : (acknowledge s).gen = s.gen := rfl
@[simp] theorem acknowledge_opa (s : State) : (acknowledge s).opa = s.opa := rfl
@[simp] theorem acknowledge_opb (s : State) : (acknowledge s).opb = s.opb := rfl
@[simp] theorem acknowledge_opc (s : State) : (acknowledge s).opc = s.opc := rfl
@[simp] theorem acknowledge_len (s : State) : (acknowledge s).len = s.len := rfl
@[simp] theorem acknowledge_res0 (s : State) : (acknowledge s).res0 = s.res0 := rfl
@[simp] theorem acknowledge_res1 (s : State) : (acknowledge s).res1 = s.res1 := rfl
@[simp] theorem acknowledge_res2 (s : State) : (acknowledge s).res2 = s.res2 := rfl
@[simp] theorem acknowledge_ntt (s : State) : (acknowledge s).ntt = s.ntt := rfl
@[simp] theorem acknowledge_fft (s : State) : (acknowledge s).fft = s.fft := rfl
@[simp] theorem acknowledge_mem (s : State) : (acknowledge s).mem = s.mem := rfl
@[simp] theorem acknowledge_schedule (s : State) : (acknowledge s).schedule = s.schedule := rfl
@[simp] theorem acknowledge_responses (s : State) : (acknowledge s).responses = s.responses := rfl

/-! ### overrun -/

@[simp] theorem overrun_config (s : State) : (overrun s).config = s.config := rfl
@[simp] theorem overrun_cmd (s : State) : (overrun s).cmd = s.cmd := rfl
@[simp] theorem overrun_status (s : State) : (overrun s).status = { s.status with overrun := true } := rfl
@[simp] theorem overrun_irqEn (s : State) : (overrun s).irqEn = s.irqEn := rfl
@[simp] theorem overrun_irqPend (s : State) : (overrun s).irqPend = s.irqPend := rfl
@[simp] theorem overrun_mrTrials (s : State) : (overrun s).mrTrials = s.mrTrials := rfl
@[simp] theorem overrun_mrSeed (s : State) : (overrun s).mrSeed = s.mrSeed := rfl
@[simp] theorem overrun_gen (s : State) : (overrun s).gen = s.gen := rfl
@[simp] theorem overrun_opa (s : State) : (overrun s).opa = s.opa := rfl
@[simp] theorem overrun_opb (s : State) : (overrun s).opb = s.opb := rfl
@[simp] theorem overrun_opc (s : State) : (overrun s).opc = s.opc := rfl
@[simp] theorem overrun_len (s : State) : (overrun s).len = s.len := rfl
@[simp] theorem overrun_res0 (s : State) : (overrun s).res0 = s.res0 := rfl
@[simp] theorem overrun_res1 (s : State) : (overrun s).res1 = s.res1 := rfl
@[simp] theorem overrun_res2 (s : State) : (overrun s).res2 = s.res2 := rfl
@[simp] theorem overrun_ntt (s : State) : (overrun s).ntt = s.ntt := rfl
@[simp] theorem overrun_fft (s : State) : (overrun s).fft = s.fft := rfl
@[simp] theorem overrun_mem (s : State) : (overrun s).mem = s.mem := rfl
@[simp] theorem overrun_schedule (s : State) : (overrun s).schedule = s.schedule := rfl
@[simp] theorem overrun_responses (s : State) : (overrun s).responses = s.responses := rfl

/-! ### respond -/

@[simp] theorem respond_config (r : Response) (s : State) : (respond r s).config = s.config := rfl
@[simp] theorem respond_cmd (r : Response) (s : State) : (respond r s).cmd = s.cmd := rfl
@[simp] theorem respond_status (r : Response) (s : State) : (respond r s).status = s.status := rfl
@[simp] theorem respond_irqEn (r : Response) (s : State) : (respond r s).irqEn = s.irqEn := rfl
@[simp] theorem respond_irqPend (r : Response) (s : State) : (respond r s).irqPend = s.irqPend := rfl
@[simp] theorem respond_mrTrials (r : Response) (s : State) : (respond r s).mrTrials = s.mrTrials := rfl
@[simp] theorem respond_mrSeed (r : Response) (s : State) : (respond r s).mrSeed = s.mrSeed := rfl
@[simp] theorem respond_gen (r : Response) (s : State) : (respond r s).gen = s.gen := rfl
@[simp] theorem respond_opa (r : Response) (s : State) : (respond r s).opa = s.opa := rfl
@[simp] theorem respond_opb (r : Response) (s : State) : (respond r s).opb = s.opb := rfl
@[simp] theorem respond_opc (r : Response) (s : State) : (respond r s).opc = s.opc := rfl
@[simp] theorem respond_len (r : Response) (s : State) : (respond r s).len = s.len := rfl
@[simp] theorem respond_res0 (r : Response) (s : State) : (respond r s).res0 = s.res0 := rfl
@[simp] theorem respond_res1 (r : Response) (s : State) : (respond r s).res1 = s.res1 := rfl
@[simp] theorem respond_res2 (r : Response) (s : State) : (respond r s).res2 = s.res2 := rfl
@[simp] theorem respond_ntt (r : Response) (s : State) : (respond r s).ntt = s.ntt := rfl
@[simp] theorem respond_fft (r : Response) (s : State) : (respond r s).fft = s.fft := rfl
@[simp] theorem respond_mem (r : Response) (s : State) : (respond r s).mem = s.mem := rfl
@[simp] theorem respond_schedule (r : Response) (s : State) : (respond r s).schedule = s.schedule := rfl
@[simp] theorem respond_responses (r : Response) (s : State) : (respond r s).responses = r :: s.responses := rfl

/-! ### softReset -/

@[simp] theorem softReset_config (s : State) : (softReset s).config = s.config := rfl
@[simp] theorem softReset_cmd (s : State) : (softReset s).cmd = State.reset.cmd := rfl
@[simp] theorem softReset_status (s : State) : (softReset s).status = State.reset.status := rfl
@[simp] theorem softReset_irqEn (s : State) : (softReset s).irqEn = State.reset.irqEn := rfl
@[simp] theorem softReset_irqPend (s : State) : (softReset s).irqPend = State.reset.irqPend := rfl
@[simp] theorem softReset_mrTrials (s : State) : (softReset s).mrTrials = State.reset.mrTrials := rfl
@[simp] theorem softReset_mrSeed (s : State) : (softReset s).mrSeed = State.reset.mrSeed := rfl
@[simp] theorem softReset_gen (s : State) : (softReset s).gen = State.reset.gen := rfl
@[simp] theorem softReset_opa (s : State) : (softReset s).opa = State.reset.opa := rfl
@[simp] theorem softReset_opb (s : State) : (softReset s).opb = State.reset.opb := rfl
@[simp] theorem softReset_opc (s : State) : (softReset s).opc = State.reset.opc := rfl
@[simp] theorem softReset_len (s : State) : (softReset s).len = State.reset.len := rfl
@[simp] theorem softReset_res0 (s : State) : (softReset s).res0 = State.reset.res0 := rfl
@[simp] theorem softReset_res1 (s : State) : (softReset s).res1 = State.reset.res1 := rfl
@[simp] theorem softReset_res2 (s : State) : (softReset s).res2 = State.reset.res2 := rfl
@[simp] theorem softReset_ntt (s : State) : (softReset s).ntt = State.reset.ntt := rfl
@[simp] theorem softReset_fft (s : State) : (softReset s).fft = State.reset.fft := rfl
@[simp] theorem softReset_mem (s : State) : (softReset s).mem = s.mem := rfl
@[simp] theorem softReset_schedule (s : State) : (softReset s).schedule = s.schedule := rfl
@[simp] theorem softReset_responses (s : State) : (softReset s).responses = s.responses := rfl

/-! ### powerOnReset -/

@[simp] theorem powerOnReset_config (c : List Host.Cell) (s : State) : (powerOnReset c s).config = s.config := rfl
@[simp] theorem powerOnReset_cmd (c : List Host.Cell) (s : State) : (powerOnReset c s).cmd = State.reset.cmd := rfl
@[simp] theorem powerOnReset_status (c : List Host.Cell) (s : State) : (powerOnReset c s).status = State.reset.status := rfl
@[simp] theorem powerOnReset_irqEn (c : List Host.Cell) (s : State) : (powerOnReset c s).irqEn = State.reset.irqEn := rfl
@[simp] theorem powerOnReset_irqPend (c : List Host.Cell) (s : State) : (powerOnReset c s).irqPend = State.reset.irqPend := rfl
@[simp] theorem powerOnReset_mrTrials (c : List Host.Cell) (s : State) : (powerOnReset c s).mrTrials = State.reset.mrTrials := rfl
@[simp] theorem powerOnReset_mrSeed (c : List Host.Cell) (s : State) : (powerOnReset c s).mrSeed = State.reset.mrSeed := rfl
@[simp] theorem powerOnReset_gen (c : List Host.Cell) (s : State) : (powerOnReset c s).gen = State.reset.gen := rfl
@[simp] theorem powerOnReset_opa (c : List Host.Cell) (s : State) : (powerOnReset c s).opa = State.reset.opa := rfl
@[simp] theorem powerOnReset_opb (c : List Host.Cell) (s : State) : (powerOnReset c s).opb = State.reset.opb := rfl
@[simp] theorem powerOnReset_opc (c : List Host.Cell) (s : State) : (powerOnReset c s).opc = State.reset.opc := rfl
@[simp] theorem powerOnReset_len (c : List Host.Cell) (s : State) : (powerOnReset c s).len = State.reset.len := rfl
@[simp] theorem powerOnReset_res0 (c : List Host.Cell) (s : State) : (powerOnReset c s).res0 = State.reset.res0 := rfl
@[simp] theorem powerOnReset_res1 (c : List Host.Cell) (s : State) : (powerOnReset c s).res1 = State.reset.res1 := rfl
@[simp] theorem powerOnReset_res2 (c : List Host.Cell) (s : State) : (powerOnReset c s).res2 = State.reset.res2 := rfl
@[simp] theorem powerOnReset_ntt (c : List Host.Cell) (s : State) : (powerOnReset c s).ntt = State.reset.ntt := rfl
@[simp] theorem powerOnReset_fft (c : List Host.Cell) (s : State) : (powerOnReset c s).fft = State.reset.fft := rfl
@[simp] theorem powerOnReset_mem (c : List Host.Cell) (s : State) : (powerOnReset c s).mem = powerOnMemory s.config c := rfl
@[simp] theorem powerOnReset_schedule (c : List Host.Cell) (s : State) : (powerOnReset c s).schedule = s.schedule := rfl
@[simp] theorem powerOnReset_responses (c : List Host.Cell) (s : State) : (powerOnReset c s).responses = s.responses := rfl

/-! ### The flags of STATUS -/

@[simp] theorem status_accepted_busy (f : Status) : (f.accepted).busy = true := rfl
@[simp] theorem status_accepted_done (f : Status) : (f.accepted).done = false := rfl
@[simp] theorem status_accepted_err (f : Status) : (f.accepted).err = false := rfl
@[simp] theorem status_accepted_overrun (f : Status) : (f.accepted).overrun = false := rfl
@[simp] theorem status_accepted_nttReady (f : Status) : (f.accepted).nttReady = f.nttReady := rfl
@[simp] theorem status_accepted_fftReady (f : Status) : (f.accepted).fftReady = f.fftReady := rfl
@[simp] theorem status_accepted_errcode (f : Status) : (f.accepted).errcode = 0 := rfl
@[simp] theorem status_completed_busy (e : BitVec 8) (f : Status) : (f.completed e).busy = false := rfl
@[simp] theorem status_completed_done (e : BitVec 8) (f : Status) : (f.completed e).done = true := rfl
@[simp] theorem status_completed_err (e : BitVec 8) (f : Status) : (f.completed e).err = (e != 0) := rfl
@[simp] theorem status_completed_overrun (e : BitVec 8) (f : Status) : (f.completed e).overrun = f.overrun := rfl
@[simp] theorem status_completed_nttReady (e : BitVec 8) (f : Status) : (f.completed e).nttReady = f.nttReady := rfl
@[simp] theorem status_completed_fftReady (e : BitVec 8) (f : Status) : (f.completed e).fftReady = f.fftReady := rfl
@[simp] theorem status_completed_errcode (e : BitVec 8) (f : Status) : (f.completed e).errcode = e := rfl

/-! ### Writes to memory: only `mem` changes -/

/-- What one guarded word write does to the memory. -/
theorem bankWrite_eq (b : Bank) (k : Nat) (v : Word) (s : State) :
    bankWrite b k v s = { s with mem := (bankWrite b k v s).mem } := by
  unfold bankWrite; split <;> rfl

/-- Writing a vector changes the memory and nothing else. -/
theorem bankWriteFrom_eq (b : Bank) (vs : List Word) : ∀ (k : Nat) (s : State),
    bankWriteFrom b k vs s = { s with mem := (bankWriteFrom b k vs s).mem } := by
  induction vs with
  | nil => intro k s; rfl
  | cons v vs ih =>
    intro k s
    change bankWriteFrom b (k + 1) vs (bankWrite b k v s)
      = { s with mem := (bankWriteFrom b (k + 1) vs (bankWrite b k v s)).mem }
    have h := ih (k + 1) (bankWrite b k v s)
    generalize bankWriteFrom b (k + 1) vs (bankWrite b k v s) = u at h ⊢
    rw [h, bankWrite_eq b k v s]

/-- Writing a vector from word 0 changes the memory and nothing else. -/
theorem bankWriteAll_eq (b : Bank) (vs : List Word) (s : State) :
    bankWriteAll b vs s = { s with mem := (bankWriteAll b vs s).mem } := bankWriteFrom_eq b vs 0 s

@[simp] theorem bankWrite_config (b : Bank) (k : Nat) (v : Word) (s : State) : (bankWrite b k v s).config = s.config := by rw [bankWrite_eq]
@[simp] theorem bankWrite_cmd (b : Bank) (k : Nat) (v : Word) (s : State) : (bankWrite b k v s).cmd = s.cmd := by rw [bankWrite_eq]
@[simp] theorem bankWrite_status (b : Bank) (k : Nat) (v : Word) (s : State) : (bankWrite b k v s).status = s.status := by rw [bankWrite_eq]
@[simp] theorem bankWrite_irqEn (b : Bank) (k : Nat) (v : Word) (s : State) : (bankWrite b k v s).irqEn = s.irqEn := by rw [bankWrite_eq]
@[simp] theorem bankWrite_irqPend (b : Bank) (k : Nat) (v : Word) (s : State) : (bankWrite b k v s).irqPend = s.irqPend := by rw [bankWrite_eq]
@[simp] theorem bankWrite_mrTrials (b : Bank) (k : Nat) (v : Word) (s : State) : (bankWrite b k v s).mrTrials = s.mrTrials := by rw [bankWrite_eq]
@[simp] theorem bankWrite_mrSeed (b : Bank) (k : Nat) (v : Word) (s : State) : (bankWrite b k v s).mrSeed = s.mrSeed := by rw [bankWrite_eq]
@[simp] theorem bankWrite_gen (b : Bank) (k : Nat) (v : Word) (s : State) : (bankWrite b k v s).gen = s.gen := by rw [bankWrite_eq]
@[simp] theorem bankWrite_opa (b : Bank) (k : Nat) (v : Word) (s : State) : (bankWrite b k v s).opa = s.opa := by rw [bankWrite_eq]
@[simp] theorem bankWrite_opb (b : Bank) (k : Nat) (v : Word) (s : State) : (bankWrite b k v s).opb = s.opb := by rw [bankWrite_eq]
@[simp] theorem bankWrite_opc (b : Bank) (k : Nat) (v : Word) (s : State) : (bankWrite b k v s).opc = s.opc := by rw [bankWrite_eq]
@[simp] theorem bankWrite_len (b : Bank) (k : Nat) (v : Word) (s : State) : (bankWrite b k v s).len = s.len := by rw [bankWrite_eq]
@[simp] theorem bankWrite_res0 (b : Bank) (k : Nat) (v : Word) (s : State) : (bankWrite b k v s).res0 = s.res0 := by rw [bankWrite_eq]
@[simp] theorem bankWrite_res1 (b : Bank) (k : Nat) (v : Word) (s : State) : (bankWrite b k v s).res1 = s.res1 := by rw [bankWrite_eq]
@[simp] theorem bankWrite_res2 (b : Bank) (k : Nat) (v : Word) (s : State) : (bankWrite b k v s).res2 = s.res2 := by rw [bankWrite_eq]
@[simp] theorem bankWrite_ntt (b : Bank) (k : Nat) (v : Word) (s : State) : (bankWrite b k v s).ntt = s.ntt := by rw [bankWrite_eq]
@[simp] theorem bankWrite_fft (b : Bank) (k : Nat) (v : Word) (s : State) : (bankWrite b k v s).fft = s.fft := by rw [bankWrite_eq]
@[simp] theorem bankWrite_schedule (b : Bank) (k : Nat) (v : Word) (s : State) : (bankWrite b k v s).schedule = s.schedule := by rw [bankWrite_eq]
@[simp] theorem bankWrite_responses (b : Bank) (k : Nat) (v : Word) (s : State) : (bankWrite b k v s).responses = s.responses := by rw [bankWrite_eq]

@[simp] theorem bankWriteFrom_config (b : Bank) (k : Nat) (vs : List Word) (s : State) : (bankWriteFrom b k vs s).config = s.config := by rw [bankWriteFrom_eq]
@[simp] theorem bankWriteFrom_cmd (b : Bank) (k : Nat) (vs : List Word) (s : State) : (bankWriteFrom b k vs s).cmd = s.cmd := by rw [bankWriteFrom_eq]
@[simp] theorem bankWriteFrom_status (b : Bank) (k : Nat) (vs : List Word) (s : State) : (bankWriteFrom b k vs s).status = s.status := by rw [bankWriteFrom_eq]
@[simp] theorem bankWriteFrom_irqEn (b : Bank) (k : Nat) (vs : List Word) (s : State) : (bankWriteFrom b k vs s).irqEn = s.irqEn := by rw [bankWriteFrom_eq]
@[simp] theorem bankWriteFrom_irqPend (b : Bank) (k : Nat) (vs : List Word) (s : State) : (bankWriteFrom b k vs s).irqPend = s.irqPend := by rw [bankWriteFrom_eq]
@[simp] theorem bankWriteFrom_mrTrials (b : Bank) (k : Nat) (vs : List Word) (s : State) : (bankWriteFrom b k vs s).mrTrials = s.mrTrials := by rw [bankWriteFrom_eq]
@[simp] theorem bankWriteFrom_mrSeed (b : Bank) (k : Nat) (vs : List Word) (s : State) : (bankWriteFrom b k vs s).mrSeed = s.mrSeed := by rw [bankWriteFrom_eq]
@[simp] theorem bankWriteFrom_gen (b : Bank) (k : Nat) (vs : List Word) (s : State) : (bankWriteFrom b k vs s).gen = s.gen := by rw [bankWriteFrom_eq]
@[simp] theorem bankWriteFrom_opa (b : Bank) (k : Nat) (vs : List Word) (s : State) : (bankWriteFrom b k vs s).opa = s.opa := by rw [bankWriteFrom_eq]
@[simp] theorem bankWriteFrom_opb (b : Bank) (k : Nat) (vs : List Word) (s : State) : (bankWriteFrom b k vs s).opb = s.opb := by rw [bankWriteFrom_eq]
@[simp] theorem bankWriteFrom_opc (b : Bank) (k : Nat) (vs : List Word) (s : State) : (bankWriteFrom b k vs s).opc = s.opc := by rw [bankWriteFrom_eq]
@[simp] theorem bankWriteFrom_len (b : Bank) (k : Nat) (vs : List Word) (s : State) : (bankWriteFrom b k vs s).len = s.len := by rw [bankWriteFrom_eq]
@[simp] theorem bankWriteFrom_res0 (b : Bank) (k : Nat) (vs : List Word) (s : State) : (bankWriteFrom b k vs s).res0 = s.res0 := by rw [bankWriteFrom_eq]
@[simp] theorem bankWriteFrom_res1 (b : Bank) (k : Nat) (vs : List Word) (s : State) : (bankWriteFrom b k vs s).res1 = s.res1 := by rw [bankWriteFrom_eq]
@[simp] theorem bankWriteFrom_res2 (b : Bank) (k : Nat) (vs : List Word) (s : State) : (bankWriteFrom b k vs s).res2 = s.res2 := by rw [bankWriteFrom_eq]
@[simp] theorem bankWriteFrom_ntt (b : Bank) (k : Nat) (vs : List Word) (s : State) : (bankWriteFrom b k vs s).ntt = s.ntt := by rw [bankWriteFrom_eq]
@[simp] theorem bankWriteFrom_fft (b : Bank) (k : Nat) (vs : List Word) (s : State) : (bankWriteFrom b k vs s).fft = s.fft := by rw [bankWriteFrom_eq]
@[simp] theorem bankWriteFrom_schedule (b : Bank) (k : Nat) (vs : List Word) (s : State) : (bankWriteFrom b k vs s).schedule = s.schedule := by rw [bankWriteFrom_eq]
@[simp] theorem bankWriteFrom_responses (b : Bank) (k : Nat) (vs : List Word) (s : State) : (bankWriteFrom b k vs s).responses = s.responses := by rw [bankWriteFrom_eq]

@[simp] theorem bankWriteAll_config (b : Bank) (vs : List Word) (s : State) : (bankWriteAll b vs s).config = s.config := by rw [bankWriteAll_eq]
@[simp] theorem bankWriteAll_cmd (b : Bank) (vs : List Word) (s : State) : (bankWriteAll b vs s).cmd = s.cmd := by rw [bankWriteAll_eq]
@[simp] theorem bankWriteAll_status (b : Bank) (vs : List Word) (s : State) : (bankWriteAll b vs s).status = s.status := by rw [bankWriteAll_eq]
@[simp] theorem bankWriteAll_irqEn (b : Bank) (vs : List Word) (s : State) : (bankWriteAll b vs s).irqEn = s.irqEn := by rw [bankWriteAll_eq]
@[simp] theorem bankWriteAll_irqPend (b : Bank) (vs : List Word) (s : State) : (bankWriteAll b vs s).irqPend = s.irqPend := by rw [bankWriteAll_eq]
@[simp] theorem bankWriteAll_mrTrials (b : Bank) (vs : List Word) (s : State) : (bankWriteAll b vs s).mrTrials = s.mrTrials := by rw [bankWriteAll_eq]
@[simp] theorem bankWriteAll_mrSeed (b : Bank) (vs : List Word) (s : State) : (bankWriteAll b vs s).mrSeed = s.mrSeed := by rw [bankWriteAll_eq]
@[simp] theorem bankWriteAll_gen (b : Bank) (vs : List Word) (s : State) : (bankWriteAll b vs s).gen = s.gen := by rw [bankWriteAll_eq]
@[simp] theorem bankWriteAll_opa (b : Bank) (vs : List Word) (s : State) : (bankWriteAll b vs s).opa = s.opa := by rw [bankWriteAll_eq]
@[simp] theorem bankWriteAll_opb (b : Bank) (vs : List Word) (s : State) : (bankWriteAll b vs s).opb = s.opb := by rw [bankWriteAll_eq]
@[simp] theorem bankWriteAll_opc (b : Bank) (vs : List Word) (s : State) : (bankWriteAll b vs s).opc = s.opc := by rw [bankWriteAll_eq]
@[simp] theorem bankWriteAll_len (b : Bank) (vs : List Word) (s : State) : (bankWriteAll b vs s).len = s.len := by rw [bankWriteAll_eq]
@[simp] theorem bankWriteAll_res0 (b : Bank) (vs : List Word) (s : State) : (bankWriteAll b vs s).res0 = s.res0 := by rw [bankWriteAll_eq]
@[simp] theorem bankWriteAll_res1 (b : Bank) (vs : List Word) (s : State) : (bankWriteAll b vs s).res1 = s.res1 := by rw [bankWriteAll_eq]
@[simp] theorem bankWriteAll_res2 (b : Bank) (vs : List Word) (s : State) : (bankWriteAll b vs s).res2 = s.res2 := by rw [bankWriteAll_eq]
@[simp] theorem bankWriteAll_ntt (b : Bank) (vs : List Word) (s : State) : (bankWriteAll b vs s).ntt = s.ntt := by rw [bankWriteAll_eq]
@[simp] theorem bankWriteAll_fft (b : Bank) (vs : List Word) (s : State) : (bankWriteAll b vs s).fft = s.fft := by rw [bankWriteAll_eq]
@[simp] theorem bankWriteAll_schedule (b : Bank) (vs : List Word) (s : State) : (bankWriteAll b vs s).schedule = s.schedule := by rw [bankWriteAll_eq]
@[simp] theorem bankWriteAll_responses (b : Bank) (vs : List Word) (s : State) : (bankWriteAll b vs s).responses = s.responses := by rw [bankWriteAll_eq]

end Sys2Proof.Machine
end

