-- ==== Sys2Proof/Laws/Memory.lean ====
section
/-! SUPPORT. The laws of memory: read after write, byte and word; the canonical form is kept by every memory operation;
what a guarded bank write changes. -/

namespace Sys2Proof.Machine

/-! ### The order of the addresses -/

theorem risesFrom_cons (lo : Option Nat) (a : Nat) (v : Byte) (m : Memory) :
    Memory.risesFrom lo ((a, v) :: m) = true ↔ (∀ l, lo = some l → l < a) ∧ Memory.risesFrom (some a) m = true := by
  cases lo <;> simp [Memory.risesFrom]

theorem risesFrom_weaken {lo lo' : Option Nat} {m : Memory} (h : Memory.risesFrom lo m = true)
    (hl : ∀ l, lo' = some l → ∃ k, lo = some k ∧ l ≤ k) : Memory.risesFrom lo' m = true := by
  cases m with
  | nil => rfl
  | cons c m =>
    obtain ⟨a, v⟩ := c
    rw [risesFrom_cons] at h ⊢
    refine ⟨fun l e => ?_, h.2⟩
    obtain ⟨k, hk, hle⟩ := hl l e
    exact Nat.lt_of_le_of_lt hle (h.1 k hk)

/-- A byte at or below the bound that every address exceeds is not listed. -/
theorem readByte_below {l a : Nat} (m : Memory) (h : Memory.risesFrom (some l) m = true) (ha : a ≤ l) :
    m.readByte a = unlistedByte := by
  induction m generalizing l with
  | nil => rfl
  | cons c m ih =>
    obtain ⟨b, v⟩ := c
    rw [risesFrom_cons] at h
    have hb := h.1 l rfl
    have : b ≠ a := by omega
    simp only [Memory.readByte, this, if_false]
    exact ih h.2 (by omega)

/-! ### One byte -/

/-- A write leaves every other byte alone. -/
theorem readByte_writeByte_other (m : Memory) {a c : Nat} (v : Byte) (h : c ≠ a) :
    (m.writeByte a v).readByte c = m.readByte c := by
  induction m with
  | nil => simp only [Memory.writeByte]; split <;> simp [Memory.readByte, h.symm]
  | cons d m ih =>
    obtain ⟨b, w⟩ := d
    simp only [Memory.writeByte]
    split
    · split <;> simp [Memory.readByte, h.symm]
    · split
      · next hab => subst hab; split <;> simp [Memory.readByte, h.symm]
      · simp only [Memory.readByte]; split
        · rfl
        · exact ih

theorem risesFrom_writeByte (m : Memory) (a : Nat) (v : Byte) {lo : Option Nat}
    (h : Memory.risesFrom lo m = true) (hl : ∀ l, lo = some l → l < a) :
    Memory.risesFrom lo (m.writeByte a v) = true := by
  induction m generalizing lo with
  | nil => simp only [Memory.writeByte]; split <;> simp_all [Memory.risesFrom]; cases lo <;> simp_all
  | cons d m ih =>
    obtain ⟨b, w⟩ := d
    have h0 := h
    rw [risesFrom_cons] at h
    simp only [Memory.writeByte]
    split
    · next hab =>
      split
      · exact h0
      · rw [risesFrom_cons, risesFrom_cons]
        exact ⟨hl, fun l e => by cases e; exact hab, h.2⟩
    · split
      · next hab =>
        subst hab
        split
        · exact risesFrom_weaken h.2 (fun l e => ⟨a, rfl, Nat.le_of_lt (hl l e)⟩)
        · rw [risesFrom_cons]; exact h
      · rw [risesFrom_cons]
        exact ⟨h.1, ih h.2 (fun l e => by cases e; omega)⟩

/-- The values stay canonical: no entry equals what an unlisted byte reads as. -/
theorem listed_writeByte (m : Memory) (a : Nat) (v : Byte) (h : ∀ c ∈ m, c.2 ≠ unlistedByte) :
    ∀ c ∈ m.writeByte a v, c.2 ≠ unlistedByte := by
  induction m with
  | nil =>
    simp only [Memory.writeByte]
    split
    · simp
    · next hv => simpa using hv
  | cons d m ih =>
    obtain ⟨b, w⟩ := d
    have hm : ∀ c ∈ m, c.2 ≠ unlistedByte := fun c hc => h c (List.mem_cons_of_mem _ hc)
    simp only [Memory.writeByte]
    split
    · split
      · exact h
      · next hv => intro c hc; rcases List.mem_cons.mp hc with rfl | hc; exacts [hv, h c hc]
    · split
      · split
        · exact hm
        · next hv => intro c hc; rcases List.mem_cons.mp hc with rfl | hc; exacts [hv, hm c hc]
      · intro c hc
        rcases List.mem_cons.mp hc with rfl | hc
        exacts [h _ (List.mem_cons_self ..), ih hm c hc]

theorem wf_iff (m : Memory) :
    m.wf = true ↔ Memory.risesFrom none m = true ∧ ∀ c ∈ m, c.2 ≠ unlistedByte := by
  simp [Memory.wf]

theorem wf_nil : Memory.wf [] = true := rfl

/-- Writing a byte keeps the canonical form. -/
theorem wf_writeByte {m : Memory} (a : Nat) (v : Byte) (h : m.wf = true) : (m.writeByte a v).wf = true := by
  rw [wf_iff] at h ⊢
  exact ⟨risesFrom_writeByte m a v h.1 (fun l e => by cases e), listed_writeByte m a v h.2⟩

theorem readByte_writeByte_rises (m : Memory) (a : Nat) (v : Byte) {lo : Option Nat}
    (h : Memory.risesFrom lo m = true) : (m.writeByte a v).readByte a = v := by
  induction m generalizing lo with
  | nil =>
    simp only [Memory.writeByte]
    split
    · next hv => rw [hv]; rfl
    · simp [Memory.readByte]
  | cons d m ih =>
    obtain ⟨b, w⟩ := d
    have h0 := h
    rw [risesFrom_cons] at h
    simp only [Memory.writeByte]
    split
    · next hab =>
      split
      · next hv =>
        rw [hv]
        have hb : b ≠ a := by omega
        simp only [Memory.readByte, hb, if_false]
        exact readByte_below m h.2 (Nat.le_of_lt hab)
      · simp [Memory.readByte]
    · split
      · next hab =>
        subst hab
        split
        · next hv => rw [hv]; exact readByte_below m h.2 (Nat.le_refl _)
        · simp [Memory.readByte]
      · next hab =>
        have hb : b ≠ a := fun e => hab e.symm
        simp only [Memory.readByte, hb, if_false]
        exact ih h.2

/-- A read after a write of the same byte gives the value written. -/
theorem readByte_writeByte_same {m : Memory} (a : Nat) (v : Byte) (h : m.wf = true) :
    (m.writeByte a v).readByte a = v :=
  readByte_writeByte_rises m a v ((wf_iff m).mp h).1

/-- The addresses a byte write lists were listed before, or are the one written. -/
theorem mem_writeByte {m : Memory} {a : Nat} {v : Byte} {c : Host.Cell} (h : c ∈ m.writeByte a v) :
    c ∈ m ∨ c.1 = a := by
  induction m with
  | nil =>
    simp only [Memory.writeByte] at h
    split at h
    · simp at h
    · right; simp at h; rw [h]
  | cons d m ih =>
    obtain ⟨b, w⟩ := d
    simp only [Memory.writeByte] at h
    split at h
    · split at h
      · exact .inl h
      · rcases List.mem_cons.mp h with rfl | h
        exacts [.inr rfl, .inl h]
    · split at h
      · split at h
        · exact .inl (List.mem_cons_of_mem _ h)
        · rcases List.mem_cons.mp h with rfl | h
          exacts [.inr rfl, .inl (List.mem_cons_of_mem _ h)]
      · rcases List.mem_cons.mp h with rfl | h
        · exact .inl (List.mem_cons_self ..)
        · rcases ih h with h | h
          exacts [.inl (List.mem_cons_of_mem _ h), .inr h]

/-! ### One word -/

/-- A word write is eight byte writes. -/
theorem writeWord_eq (m : Memory) (a : Nat) (v : Word) :
    m.writeWord a v =
      (((((((((m.writeByte (a + 0) (lane v 0)).writeByte (a + 1) (lane v 1)).writeByte (a + 2) (lane v 2)).writeByte
        (a + 3) (lane v 3)).writeByte (a + 4) (lane v 4)).writeByte (a + 5) (lane v 5)).writeByte
        (a + 6) (lane v 6)).writeByte (a + 7) (lane v 7))) := rfl

/-- Writing a word keeps the canonical form. -/
theorem wf_writeWord {m : Memory} (a : Nat) (v : Word) (h : m.wf = true) : (m.writeWord a v).wf = true := by
  rw [writeWord_eq]
  iterate 8 apply wf_writeByte
  exact h

/-- A word write leaves every byte outside its eight alone. -/
theorem readByte_writeWord_other (m : Memory) {a c : Nat} (v : Word) (h : c < a ∨ a + 8 ≤ c) :
    (m.writeWord a v).readByte c = m.readByte c := by
  rw [writeWord_eq]
  iterate 8 rw [readByte_writeByte_other _ _ (by omega)]

/-- Byte `k` of the word written at `a` is its lane `k` (20_memory.md R64). -/
theorem readByte_writeWord_same {m : Memory} (a : Nat) (v : Word) {k : Nat} (hk : k < 8) (h : m.wf = true) :
    (m.writeWord a v).readByte (a + k) = lane v k := by
  have hw : ∀ (n : Memory) (b : Nat) (x : Byte), n.wf = true → (n.writeByte b x).wf = true :=
    fun _ b x hn => wf_writeByte b x hn
  rw [writeWord_eq]
  have w0 := hw m (a + 0) (lane v 0) h
  have w1 := hw _ (a + 1) (lane v 1) w0
  have w2 := hw _ (a + 2) (lane v 2) w1
  have w3 := hw _ (a + 3) (lane v 3) w2
  have w4 := hw _ (a + 4) (lane v 4) w3
  have w5 := hw _ (a + 5) (lane v 5) w4
  have w6 := hw _ (a + 6) (lane v 6) w5
  have hk' : k = 0 ∨ k = 1 ∨ k = 2 ∨ k = 3 ∨ k = 4 ∨ k = 5 ∨ k = 6 ∨ k = 7 := by omega
  rcases hk' with rfl | rfl | rfl | rfl | rfl | rfl | rfl | rfl
  · iterate 7 rw [readByte_writeByte_other _ _ (by omega)]
    exact readByte_writeByte_same _ _ h
  · iterate 6 rw [readByte_writeByte_other _ _ (by omega)]
    exact readByte_writeByte_same _ _ w0
  · iterate 5 rw [readByte_writeByte_other _ _ (by omega)]
    exact readByte_writeByte_same _ _ w1
  · iterate 4 rw [readByte_writeByte_other _ _ (by omega)]
    exact readByte_writeByte_same _ _ w2
  · iterate 3 rw [readByte_writeByte_other _ _ (by omega)]
    exact readByte_writeByte_same _ _ w3
  · iterate 2 rw [readByte_writeByte_other _ _ (by omega)]
    exact readByte_writeByte_same _ _ w4
  · rw [readByte_writeByte_other _ _ (by omega)]
    exact readByte_writeByte_same _ _ w5
  · exact readByte_writeByte_same _ _ w6

/-- The eight lanes of a word make up the word. -/
theorem lanes_append (v : Word) :
    lane v 7 ++ lane v 6 ++ lane v 5 ++ lane v 4 ++ lane v 3 ++ lane v 2 ++ lane v 1 ++ lane v 0 = v := by
  apply BitVec.eq_of_getElem_eq
  intro i hi
  simp only [lane, BitVec.getElem_append, BitVec.getElem_extractLsb']
  repeat' split
  all_goals (rw [← BitVec.getLsbD_eq_getElem]; congr 1; omega)

/-- A read after a write of the same word gives the word written. -/
theorem readWord_writeWord_same {m : Memory} (a : Nat) (v : Word) (h : m.wf = true) :
    (m.writeWord a v).readWord a = v := by
  have r := fun k hk => readByte_writeWord_same a v (k := k) hk h
  have r0 := r 0 (by omega)
  rw [Nat.add_zero] at r0
  unfold Memory.readWord
  rw [r 7 (by omega), r 6 (by omega), r 5 (by omega), r 4 (by omega), r 3 (by omega), r 2 (by omega), r 1 (by omega), r0]
  exact lanes_append v

/-- Words whose eight bytes agree are equal. -/
theorem readWord_congr {m n : Memory} {a : Nat} (h : ∀ k < 8, m.readByte (a + k) = n.readByte (a + k)) :
    m.readWord a = n.readWord a := by
  have h0 := h 0 (by omega)
  rw [Nat.add_zero] at h0
  unfold Memory.readWord
  rw [h 7 (by omega), h 6 (by omega), h 5 (by omega), h 4 (by omega), h 3 (by omega), h 2 (by omega), h 1 (by omega), h0]

/-- A word write leaves every word that does not overlap it alone. -/
theorem readWord_writeWord_other (m : Memory) {a c : Nat} (v : Word) (h : c + 8 ≤ a ∨ a + 8 ≤ c) :
    (m.writeWord a v).readWord c = m.readWord c :=
  readWord_congr (fun k hk => readByte_writeWord_other m v (by omega))

theorem mem_writeWord {m : Memory} {a : Nat} {v : Word} {c : Host.Cell} (h : c ∈ m.writeWord a v) :
    c ∈ m ∨ (a ≤ c.1 ∧ c.1 < a + 8) := by
  rw [writeWord_eq] at h
  repeat (rcases mem_writeByte h with h | h; swap; · right; omega)
  exact .inl h

/-! ### The windows -/

theorem nMax_le (c : Config) : c.nMax ≤ 65536 := by
  have h := c.logNMaxPred.isLt
  have : c.logNMax ≤ 16 := by unfold Config.logNMax; omega
  exact Nat.pow_le_pow_right (by decide) this

/-- No two windows overlap, and none reaches past 0x600000 (20_memory.md R60). -/
theorem windows_disjoint (c : Config) {b b' : Bank} (h : b ≠ b') :
    bankBase b + 8 * bankWords c b ≤ bankBase b' ∨ bankBase b' + 8 * bankWords c b' ≤ bankBase b := by
  have := nMax_le c
  cases b <;> cases b' <;> simp [bankBase, bankWords] at h ⊢ <;> omega

theorem inWindow_iff (c : Config) (b : Bank) (a : Nat) :
    inWindow c b a = true ↔ bankBase b ≤ a ∧ a < bankBase b + 8 * bankWords c b := by
  simp [inWindow]

theorem mappedByte_iff (c : Config) (a : Nat) : mappedByte c a = true ↔ ∃ b, inWindow c b a = true := by
  simp only [mappedByte, List.any_eq_true]
  refine ⟨fun ⟨b, _, h⟩ => ⟨b, h⟩, fun ⟨b, h⟩ => ⟨b, ?_, h⟩⟩
  cases b <;> simp [allBanks]

/-! ### Guarded bank writes -/

/-- A bank write keeps the canonical form. -/
theorem wf_bankWrite {s : State} (b : Bank) (k : Nat) (v : Word) (h : s.mem.wf = true) :
    (bankWrite b k v s).mem.wf = true := by
  unfold bankWrite
  split
  · exact wf_writeWord _ _ h
  · exact h

/-- A bank write leaves every byte outside its word alone. -/
theorem readByte_bankWrite_other {s : State} {b : Bank} {k a : Nat} (v : Word)
    (h : a < bankAddr b k ∨ bankAddr b k + 8 ≤ a) : (bankWrite b k v s).mem.readByte a = s.mem.readByte a := by
  unfold bankWrite
  split
  · exact readByte_writeWord_other _ v h
  · rfl

/-- A bank write leaves every byte outside its window alone, whatever the word index. -/
theorem readByte_bankWrite_outside {s : State} {b : Bank} {k a : Nat} (v : Word)
    (h : inWindow s.config b a = false) : (bankWrite b k v s).mem.readByte a = s.mem.readByte a := by
  by_cases hk : k < bankWords s.config b
  · apply readByte_bankWrite_other
    by_contra hc
    have : inWindow s.config b a = true := by
      rw [inWindow_iff]; simp only [bankAddr] at hc; omega
    rw [this] at h; cases h
  · simp [bankWrite, hk]

/-- A read after a write of the same bank word gives the word written. -/
theorem bankRead_bankWrite_same {s : State} {b : Bank} {k : Nat} (v : Word) (hk : k < bankWords s.config b)
    (h : s.mem.wf = true) : bankRead b k (bankWrite b k v s) = v := by
  simp only [bankRead, bankWrite_config, hk, if_true]
  simp only [bankWrite, hk, if_true]
  exact readWord_writeWord_same _ v h

/-- A bank write leaves every other bank word alone. -/
theorem bankRead_bankWrite_other {s : State} {b b' : Bank} {k k' : Nat} (v : Word) (h : b' ≠ b ∨ k' ≠ k) :
    bankRead b' k' (bankWrite b k v s) = bankRead b' k' s := by
  simp only [bankRead, bankWrite_config]
  split
  · next hk' =>
    unfold bankWrite
    split
    · next hk =>
      apply readWord_writeWord_other
      simp only [bankAddr]
      rcases eq_or_ne b' b with rfl | hb
      · have : k' ≠ k := by simpa using h
        omega
      · have := windows_disjoint s.config hb
        omega
    · rfl
  · rfl

/-! ### Writing a vector -/

theorem wf_bankWriteFrom (b : Bank) (vs : List Word) : ∀ (k : Nat) {s : State}, s.mem.wf = true →
    (bankWriteFrom b k vs s).mem.wf = true := by
  induction vs with
  | nil => intro k s h; exact h
  | cons v vs ih => intro k s h; exact ih (k + 1) (wf_bankWrite b k v h)

/-- Writing a vector keeps the canonical form. -/
theorem wf_bankWriteAll {s : State} (b : Bank) (vs : List Word) (h : s.mem.wf = true) :
    (bankWriteAll b vs s).mem.wf = true := wf_bankWriteFrom b vs 0 h

theorem readByte_bankWriteFrom_other (b : Bank) (vs : List Word) : ∀ (k : Nat) (s : State) (a : Nat),
    (a < bankAddr b k ∨ bankAddr b (k + vs.length) ≤ a) →
    (bankWriteFrom b k vs s).mem.readByte a = s.mem.readByte a := by
  induction vs with
  | nil => intro k s a _; rfl
  | cons v vs ih =>
    intro k s a h
    have h1 : a < bankAddr b (k + 1) ∨ bankAddr b (k + 1 + vs.length) ≤ a := by
      simp only [bankAddr, List.length_cons] at h ⊢; omega
    have h2 : a < bankAddr b k ∨ bankAddr b k + 8 ≤ a := by
      simp only [bankAddr, List.length_cons] at h ⊢; omega
    exact (ih (k + 1) (bankWrite b k v s) a h1).trans (readByte_bankWrite_other v h2)

/-- Writing a vector leaves every byte outside its words alone. -/
theorem readByte_bankWriteAll_other {s : State} (b : Bank) (vs : List Word) {a : Nat}
    (h : a < bankBase b ∨ bankBase b + 8 * vs.length ≤ a) :
    (bankWriteAll b vs s).mem.readByte a = s.mem.readByte a :=
  readByte_bankWriteFrom_other b vs 0 s a (by simpa [bankAddr] using h)

theorem readByte_bankWriteFrom_outside (b : Bank) (vs : List Word) : ∀ (k : Nat) (s : State) {a : Nat},
    inWindow s.config b a = false → (bankWriteFrom b k vs s).mem.readByte a = s.mem.readByte a := by
  induction vs with
  | nil => intro k s a _; rfl
  | cons v vs ih =>
    intro k s a h
    have h' : inWindow (bankWrite b k v s).config b a = false := by simpa using h
    exact (ih (k + 1) _ h').trans (readByte_bankWrite_outside v h)

/-- Writing a vector leaves every byte outside its window alone, however long it is. -/
theorem readByte_bankWriteAll_outside {s : State} (b : Bank) (vs : List Word) {a : Nat}
    (h : inWindow s.config b a = false) : (bankWriteAll b vs s).mem.readByte a = s.mem.readByte a :=
  readByte_bankWriteFrom_outside b vs 0 s h

theorem bankRead_bankWriteFrom_other {b b' : Bank} (vs : List Word) : ∀ (k : Nat) (s : State) {k' : Nat},
    (b' ≠ b ∨ k' < k ∨ k + vs.length ≤ k') → bankRead b' k' (bankWriteFrom b k vs s) = bankRead b' k' s := by
  induction vs with
  | nil => intro k s k' _; rfl
  | cons v vs ih =>
    intro k s k' h
    have h1 : b' ≠ b ∨ k' < k + 1 ∨ k + 1 + vs.length ≤ k' := by
      simp only [List.length_cons] at h; exact h.imp_right (fun h => by omega)
    have h2 : b' ≠ b ∨ k' ≠ k := by simp only [List.length_cons] at h; exact h.imp_right (fun h => by omega)
    exact (ih (k + 1) (bankWrite b k v s) h1).trans (bankRead_bankWrite_other v h2)

theorem bankRead_bankWriteFrom_same (b : Bank) (vs : List Word) : ∀ (k : Nat) (s : State) {i : Nat} (hi : i < vs.length),
    k + i < bankWords s.config b → s.mem.wf = true → bankRead b (k + i) (bankWriteFrom b k vs s) = vs[i] := by
  induction vs with
  | nil => intro k s i hi; simp at hi
  | cons v vs ih =>
    intro k s i hi hk h
    cases i with
    | zero =>
      have e : bankRead b (k + 0) (bankWriteFrom b (k + 1) vs (bankWrite b k v s))
          = bankRead b (k + 0) (bankWrite b k v s) :=
        bankRead_bankWriteFrom_other vs (k + 1) _ (.inr (.inl (by omega)))
      exact e.trans (bankRead_bankWrite_same v hk h)
    | succ i =>
      have hi' : i < vs.length := by simpa using hi
      have hk' : k + 1 + i < bankWords (bankWrite b k v s).config b := by
        rw [bankWrite_config]; omega
      have := ih (k + 1) (bankWrite b k v s) hi' hk' (wf_bankWrite b k v h)
      have e : k + (i + 1) = k + 1 + i := by omega
      rw [e]
      exact this

/-- Word `i` of a vector just written reads as its element `i`. -/
theorem bankRead_bankWriteAll_same {s : State} {b : Bank} {vs : List Word} {i : Nat} (hi : i < vs.length)
    (hk : i < bankWords s.config b) (h : s.mem.wf = true) : bankRead b i (bankWriteAll b vs s) = vs[i] := by
  have := bankRead_bankWriteFrom_same b vs 0 s hi (by omega) h
  rwa [Nat.zero_add] at this

/-- Writing a vector leaves every other memory, and the words past it, alone. -/
theorem bankRead_bankWriteAll_other {s : State} {b b' : Bank} {vs : List Word} {k : Nat}
    (h : b' ≠ b ∨ vs.length ≤ k) : bankRead b' k (bankWriteAll b vs s) = bankRead b' k s :=
  bankRead_bankWriteFrom_other vs 0 s (h.imp_right (fun h => .inr (by omega)))

/-! ### Only bytes the build has are ever listed -/

theorem mapped_bankWrite {s : State} (b : Bank) (k : Nat) (v : Word)
    (h : ∀ c ∈ s.mem, mappedByte s.config c.1 = true) :
    ∀ c ∈ (bankWrite b k v s).mem, mappedByte s.config c.1 = true := by
  intro c hc
  unfold bankWrite at hc
  split at hc
  · next hk =>
    rcases mem_writeWord hc with hc | hc
    · exact h c hc
    · rw [mappedByte_iff]
      refine ⟨b, ?_⟩
      rw [inWindow_iff]
      simp only [bankAddr] at hc
      omega
  · exact h c hc

theorem mapped_bankWriteFrom (b : Bank) (vs : List Word) : ∀ (k : Nat) (s : State),
    (∀ c ∈ s.mem, mappedByte s.config c.1 = true) →
    ∀ c ∈ (bankWriteFrom b k vs s).mem, mappedByte s.config c.1 = true := by
  induction vs with
  | nil => intro k s h; exact h
  | cons v vs ih =>
    intro k s h
    have h1 := mapped_bankWrite b k v h
    have := ih (k + 1) (bankWrite b k v s) (by simpa using h1)
    rw [bankWrite_config] at this
    exact this

/-- Writing a vector lists only bytes the build has. -/
theorem mapped_bankWriteAll {s : State} (b : Bank) (vs : List Word)
    (h : ∀ c ∈ s.mem, mappedByte s.config c.1 = true) :
    ∀ c ∈ (bankWriteAll b vs s).mem, mappedByte s.config c.1 = true := mapped_bankWriteFrom b vs 0 s h

/-- The memories after power-on are in canonical form and list only bytes the build has. -/
theorem powerOnMemory_sound (c : Config) (contents : List Host.Cell) :
    (powerOnMemory c contents).wf = true ∧ ∀ b ∈ powerOnMemory c contents, mappedByte c b.1 = true := by
  have key : ∀ (l : List Host.Cell) (m : Memory), (m.wf = true ∧ ∀ b ∈ m, mappedByte c b.1 = true) →
      let r := l.foldl (fun m b => if mappedByte c b.1 then Memory.writeByte m b.1 b.2 else m) m
      r.wf = true ∧ ∀ b ∈ r, mappedByte c b.1 = true := by
    intro l
    induction l with
    | nil => intro m h; exact h
    | cons d l ih =>
      intro m h
      apply ih
      show (if mappedByte c d.1 = true then m.writeByte d.1 d.2 else m).wf = true ∧
        ∀ b ∈ (if mappedByte c d.1 = true then m.writeByte d.1 d.2 else m), mappedByte c b.1 = true
      split
      · next hd =>
        refine ⟨wf_writeByte _ _ h.1, fun b hb => ?_⟩
        rcases mem_writeByte hb with hb | hb
        exacts [h.2 b hb, hb ▸ hd]
      · exact h
  exact key contents [] ⟨rfl, by simp⟩

/-- State.reset's memory has the canonical form. -/
theorem wf_reset : State.reset.mem.wf = true := rfl

end Sys2Proof.Machine
end

