-- ==== Sys2Proof/Laws/Ops.lean ====
section
/-! SUPPORT. For each shared operation, one lemma that says once everything it can do. -/

namespace Sys2Proof.Machine

/-- `ok` answers the completed state. -/
theorem succeed_next {s t : State} : succeed s = .next t ↔ t = complete 0 s := by
  simp only [succeed, Host.Outcome.next.injEq]; exact eq_comm

/-- `raise` answers the state completed with the code. -/
theorem raise_next {e : ErrorCode} {s t : State} : raise e s = .next t ↔ t = complete e.code s := by
  simp only [raise, Host.Outcome.next.injEq]; exact eq_comm

/-- The end of a utility command: results and success, or an error with the results as they are. -/
theorem finishNat_next {r : Except ErrorCode Nat} {s t : State} (h : finishNat r s = .next t) :
    (∃ v, r = .ok v ∧ t = complete 0 (setResults (natBits64 v) 0 0 s)) ∨
    (∃ e, r = .error e ∧ t = complete e.code s) := by
  cases r with
  | ok v => exact .inl ⟨v, rfl, succeed_next.mp h⟩
  | error e => exact .inr ⟨e, rfl, raise_next.mp h⟩

/-- The checks of a vector bit reversal (42_bit_reversal.md R163). -/
theorem withBitrevLength_next {s t : State} {body : Nat → State} (h : withBitrevLength s body = .next t) :
    (isPow2 (uint s.len) = false ∧ t = complete (ErrorCode.code .lengthNotPowerOfTwo) s) ∨
    (isPow2 (uint s.len) = true ∧ s.config.nMax < uint s.len ∧ t = complete (ErrorCode.code .capacity) s) ∨
    (isPow2 (uint s.len) = true ∧ uint s.len ≤ s.config.nMax ∧ t = complete 0 (body (uint s.len))) := by
  simp only [withBitrevLength] at h
  split at h
  · next hp => exact .inl ⟨hp, raise_next.mp h⟩
  · next hp =>
    rw [Bool.not_eq_false] at hp
    split at h
    · next hc => exact .inr (.inl ⟨hp, hc, raise_next.mp h⟩)
    · next hc => exact .inr (.inr ⟨hp, Nat.le_of_not_lt hc, succeed_next.mp h⟩)

/-- The checks of an NTT transform (43_transform_engine.md R182). -/
theorem withNttEngine_next {s t b : State} (h : withNttEngine s b = .next t) :
    (s.status.nttReady = false ∧ t = complete (ErrorCode.code .notReady) s) ∨
    (s.status.nttReady = true ∧ uint s.len ≠ uint s.ntt.n ∧ t = complete (ErrorCode.code .invalidLength) s) ∨
    (s.status.nttReady = true ∧ uint s.len = uint s.ntt.n ∧ t = complete 0 b) := by
  simp only [withNttEngine] at h
  split at h
  · next hr => exact .inl ⟨hr, raise_next.mp h⟩
  · next hr =>
    rw [Bool.not_eq_false] at hr
    split at h
    · next hl => exact .inr (.inl ⟨hr, hl, raise_next.mp h⟩)
    · next hl => exact .inr (.inr ⟨hr, not_not.mp hl, succeed_next.mp h⟩)

/-- The checks of an FFT transform (43_transform_engine.md R186). -/
theorem withFftEngine_next {s t b : State} (h : withFftEngine s b = .next t) :
    (s.status.fftReady = false ∧ t = complete (ErrorCode.code .notReady) s) ∨
    (s.status.fftReady = true ∧ uint s.len ≠ uint s.fft.n ∧ t = complete (ErrorCode.code .invalidLength) s) ∨
    (s.status.fftReady = true ∧ uint s.len = uint s.fft.n ∧ t = complete 0 b) := by
  simp only [withFftEngine] at h
  split at h
  · next hr => exact .inl ⟨hr, raise_next.mp h⟩
  · next hr =>
    rw [Bool.not_eq_false] at hr
    split at h
    · next hl => exact .inr (.inl ⟨hr, hl, raise_next.mp h⟩)
    · next hl => exact .inr (.inr ⟨hr, not_not.mp hl, succeed_next.mp h⟩)

/-- The primality test changes nothing but the generator (41_number_theory.md R120, R121): what a command does after it,
with the verdict. -/
theorem execIsprime_next {s t : State} (h : execIsprime s = .next t) :
    t = complete 0 (setResults (natBits64 (testPrime (sint s.opa) s).1.toNat) 0 0
      (setGen (testPrime (sint s.opa) s).2 (clearResults s))) := succeed_next.mp h

/-- PRIMROOT: the primality verdict, then the search (41_number_theory.md R125). -/
theorem execPrimroot_next {s t : State} (h : execPrimroot s = .next t) :
    let s1 := setGen (testPrime (sint s.opa) s).2 (clearResults s)
    ((testPrime (sint s.opa) s).1 = false ∧ t = complete (ErrorCode.code .notPrime) s1) ∨
    ((testPrime (sint s.opa) s).1 = true ∧ finishNat (primRootSearch (sint s.opa).toNat) s1 = .next t) := by
  simp only [execPrimroot] at h
  split at h
  · next hp => exact .inl ⟨hp, raise_next.mp h⟩
  · next hp => exact .inr ⟨Bool.not_eq_false _ ▸ hp, h⟩

/-- ROOTUNITY: the primality verdict, then the search (41_number_theory.md R127). -/
theorem execRootunity_next {s t : State} (h : execRootunity s = .next t) :
    let s1 := setGen (testPrime (sint s.opa) s).2 (clearResults s)
    ((testPrime (sint s.opa) s).1 = false ∧ t = complete (ErrorCode.code .notPrime) s1) ∨
    ((testPrime (sint s.opa) s).1 = true ∧
      finishNat (rootOfUnityCore (sint s.opa).toNat (sint s.opb)) s1 = .next t) := by
  simp only [execRootunity] at h
  split at h
  · next hp => exact .inl ⟨hp, raise_next.mp h⟩
  · next hp => exact .inr ⟨Bool.not_eq_false _ ▸ hp, h⟩

/-- NTT.INIT: every way it can end (43_transform_engine.md R180). -/
theorem execNttInit_next {s t : State} (h : execNttInit s = .next t) :
    let s1 := releaseNtt s
    let s2 := setGen (testPrime (sint s.opa) s).2 s1
    (isPow2Int (sint s.opb) = false ∧ t = complete (ErrorCode.code .invalidDegree) s1) ∨
    (isPow2Int (sint s.opb) = true ∧ (s.config.nMax : Int) < sint s.opb ∧
      t = complete (ErrorCode.code .capacity) s1) ∨
    (isPow2Int (sint s.opb) = true ∧ sint s.opb ≤ s.config.nMax ∧ (testPrime (sint s.opa) s).1 = false ∧
      t = complete (ErrorCode.code .notPrime) s2) ∨
    (isPow2Int (sint s.opb) = true ∧ sint s.opb ≤ s.config.nMax ∧ (testPrime (sint s.opa) s).1 = true ∧
      ∃ e, nttParameters (sint s.opa).toNat (sint s.opb).toNat = .error e ∧ t = complete e.code s2) ∨
    (isPow2Int (sint s.opb) = true ∧ sint s.opb ≤ s.config.nMax ∧ (testPrime (sint s.opa) s).1 = true ∧
      ∃ psi psiInv nInv, nttParameters (sint s.opa).toNat (sint s.opb).toNat = .ok (psi, psiInv, nInv) ∧
        t = complete 0 (buildNtt (sint s.opa).toNat (sint s.opb).toNat psi psiInv nInv s2)) := by
  simp only [execNttInit] at h
  split at h
  · next hp => exact .inl ⟨hp, raise_next.mp h⟩
  · next hp =>
    rw [Bool.not_eq_false] at hp
    split at h
    · next hc => exact .inr (.inl ⟨hp, hc, raise_next.mp h⟩)
    · next hc =>
      have hc := Int.not_lt.mp hc
      split at h
      · next ht => exact .inr (.inr (.inl ⟨hp, hc, ht, raise_next.mp h⟩))
      · next ht =>
        rw [Bool.not_eq_false] at ht
        split at h
        · next e he => exact .inr (.inr (.inr (.inl ⟨hp, hc, ht, e, he, raise_next.mp h⟩)))
        · next a b c he => exact .inr (.inr (.inr (.inr ⟨hp, hc, ht, a, b, c, he, succeed_next.mp h⟩)))

/-- FFT.INIT: every way it can end (43_transform_engine.md R185). -/
theorem execFftInit_next {s t : State} (h : execFftInit s = .next t) :
    (isPow2Int (sint s.opb) = false ∧ t = complete (ErrorCode.code .invalidDegree) (releaseFft s)) ∨
    (isPow2Int (sint s.opb) = true ∧ (s.config.nMax : Int) < sint s.opb ∧
      t = complete (ErrorCode.code .capacity) (releaseFft s)) ∨
    (isPow2Int (sint s.opb) = true ∧ sint s.opb ≤ s.config.nMax ∧
      t = complete 0 (buildFft (sint s.opb).toNat (releaseFft s))) := by
  simp only [execFftInit] at h
  split at h
  · next hp => exact .inl ⟨hp, raise_next.mp h⟩
  · next hp =>
    rw [Bool.not_eq_false] at hp
    split at h
    · next hc => exact .inr (.inl ⟨hp, hc, raise_next.mp h⟩)
    · next hc => exact .inr (.inr ⟨hp, Int.not_lt.mp hc, succeed_next.mp h⟩)

/-- The engine's turn (40_control.md R111). -/
theorem runEngine_next {s t : State} (h : runEngine s = .next t) :
    (s.status.busy = false ∧ t = s) ∨
    (s.status.busy = true ∧ ∃ i, decode s.cmd = .ok i ∧ exec i s = .next t) ∨
    (s.status.busy = true ∧ (∃ e, decode s.cmd = .error e) ∧ t = complete (ErrorCode.code .illegalCommand) s) := by
  simp only [runEngine] at h
  split at h
  · next hb =>
    split at h
    · next i hi => exact .inr (.inl ⟨hb, i, hi, h⟩)
    · next e he => exact .inr (.inr ⟨hb, ⟨e, he⟩, raise_next.mp h⟩)
  · next hb =>
    rw [Bool.not_eq_true] at hb
    simp only [Host.Outcome.next.injEq] at h
    exact .inl ⟨hb, h.symm⟩

/-- Everything one step can do (20_memory.md R70). -/
theorem step_next {s t : State} (h : step s = .next t) :
    (s.schedule = [] ∧ runEngine s = .next t) ∨
    (∃ rest, s.schedule = .engine :: rest ∧ runEngine { s with schedule := rest } = .next t) ∨
    (∃ x rest, s.schedule = .host x :: rest ∧ t = serve x { s with schedule := rest }) ∨
    (∃ c rest, s.schedule = .powerOn c :: rest ∧ t = powerOnReset c { s with schedule := rest }) := by
  unfold step at h
  split at h
  · next hs => exact .inl ⟨hs, h⟩
  · next rest hs => exact .inr (.inl ⟨rest, hs, h⟩)
  · next x rest hs =>
    simp only [Host.Outcome.next.injEq] at h
    exact .inr (.inr (.inl ⟨x, rest, hs, h.symm⟩))
  · next c rest hs =>
    simp only [Host.Outcome.next.injEq] at h
    exact .inr (.inr (.inr ⟨c, rest, hs, h.symm⟩))

/-- Everything a Write can do (20_memory.md R62 to R68): nothing with ERROR, nothing with OKAY, the overrun, a register's
effect, or a word of IN or OUT. -/
theorem writeEffect_cases (s : State) (t : Transaction) (v : Word) :
    writeEffect s t v = (s, .write .error) ∨
    writeEffect s t v = (s, .write .okay) ∨
    (t.legal = true ∧ s.status.busy = true ∧ locate s.config t.addr.toNat = .register .cmd ∧
      writeEffect s t v = (overrun s, .write .error)) ∨
    (t.legal = true ∧ ∃ r, locate s.config t.addr.toNat = .register r ∧
      (s.status.busy = true → r = .id ∨ r = .status ∨ r = .ctrl ∨ r = .irq) ∧
      writeEffect s t v = (writeReg v s r, .write .okay)) ∨
    (t.legal = true ∧ s.status.busy = false ∧ ∃ b k, locate s.config t.addr.toNat = .word b k ∧
      hostWritable b = true ∧ writeEffect s t v = (bankWrite b k v s, .write .okay)) := by
  unfold writeEffect
  split
  · exact .inl rfl
  · next hl =>
    rw [Bool.not_eq_false] at hl
    split
    · exact .inl rfl
    · next ha =>
      split
      · next hb => exact .inr (.inr (.inl ⟨hl, hb, ha, rfl⟩))
      · next hb => exact .inr (.inr (.inr (.inl ⟨hl, .cmd, ha, fun h => absurd h hb, rfl⟩)))
    · next r hr ha =>
      split
      · exact .inl rfl
      · next hb =>
        refine .inr (.inr (.inr (.inl ⟨hl, r, ha, fun h => ?_, rfl⟩)))
        rw [h, Bool.true_and] at hb
        cases r <;> simp [regBlocked] at hb hr ⊢
    · split
      · exact .inl rfl
      · exact .inr (.inl rfl)
    · next b k ha =>
      split
      · exact .inl rfl
      · next hb =>
        rw [Bool.not_eq_true] at hb
        split
        · next hw => exact .inr (.inr (.inr (.inr ⟨hl, hb, b, k, ha, hw, rfl⟩)))
        · exact .inr (.inl rfl)

/-- A word the address map gives lies in its window. -/
theorem locate_word {c : Config} {a : Nat} {b : Bank} {k : Nat} (h : locate c a = .word b k) :
    inWindow c b a = true ∧ k = (a - bankBase b) / 8 := by
  unfold locate at h
  split at h
  · split at h <;> simp at h
  · split at h
    · next b' hb =>
      have := List.find?_some hb
      simp only [Location.word.injEq] at h
      obtain ⟨rfl, rfl⟩ := h
      exact ⟨by simpa using this, rfl⟩
    · simp at h

/-- A word the address map gives is one the build has. -/
theorem locate_word_valid {c : Config} {a : Nat} {b : Bank} {k : Nat} (h : locate c a = .word b k) :
    k < bankWords c b := by
  obtain ⟨hw, rfl⟩ := locate_word h
  rw [inWindow_iff] at hw
  omega

end Sys2Proof.Machine
end

