-- ==== Sys2Proof/Laws/Arith.lean ====
section
/-! SUPPORT. What the core functions compute: the power loop, the power-of-two test, the lengths and entries of the
vectors, and the table lookups of the decoder. -/

namespace Sys2Proof.Machine

/-! ### Modular exponentiation -/

theorem powLoop_mod (m : Nat) : ∀ (fuel r x k : Nat), k ≤ fuel → powLoop m fuel r x k % m = r * x ^ k % m := by
  intro fuel
  induction fuel with
  | zero => intro r x k h; obtain rfl : k = 0 := by omega
            simp [powLoop]
  | succ fuel ih =>
    intro r x k h
    simp only [powLoop]
    split
    · next hk => simp [hk]
    · next hk =>
      rw [ih _ _ _ (by omega)]
      have hx : (x * x % m) ^ (k / 2) % m = x ^ (2 * (k / 2)) % m := by
        rw [← Nat.pow_mod, ← pow_two, ← pow_mul]
      split
      · next hodd =>
        have e : k = 2 * (k / 2) + 1 := by omega
        rw [Nat.mul_mod, hx, Nat.mod_mod, ← Nat.mul_mod]
        conv_rhs => rw [e, pow_succ]
        congr 1
        ring
      · next heven =>
        have e : k = 2 * (k / 2) := by omega
        rw [Nat.mul_mod, hx, ← Nat.mul_mod]
        conv_rhs => rw [e]

theorem powLoop_lt {m : Nat} (hm : 0 < m) : ∀ (fuel r x k : Nat), r < m → powLoop m fuel r x k < m := by
  intro fuel
  induction fuel with
  | zero => intro r x k h; exact h
  | succ fuel ih =>
    intro r x k h
    simp only [powLoop]
    split
    · exact h
    · apply ih
      split
      · exact Nat.mod_lt _ hm
      · exact h

/-- PowCore computes the power of the reduced base (41_number_theory.md R132). -/
theorem powCore_eq (b : Int) (e : Nat) {m : Nat} (hm : 0 < m) : powCore b e m = (b % (m : Int)).toNat ^ e % m := by
  unfold powCore
  rw [← Nat.mod_eq_of_lt (powLoop_lt hm e (1 % m) _ e (Nat.mod_lt _ hm)), powLoop_mod m e _ _ e (Nat.le_refl _),
    Nat.mul_mod, Nat.mod_mod, ← Nat.mul_mod, one_mul]

/-! ### Power of two -/

/-- The bit test says: a power of two above 1 (41_number_theory.md R134). -/
theorem isPow2_iff (x : Nat) : isPow2 x = true ↔ ∃ k, 1 ≤ k ∧ x = 2 ^ k := by
  simp only [isPow2, Bool.and_eq_true, decide_eq_true_eq, beq_iff_eq]
  constructor
  · rintro ⟨h1, h2⟩
    obtain ⟨k, rfl⟩ := (Nat.and_sub_one_eq_zero_iff_isPowerOfTwo (by omega)).mp h2
    refine ⟨k, ?_, rfl⟩
    by_contra hk
    obtain rfl : k = 0 := by omega
    simp at h1
  · rintro ⟨k, hk, rfl⟩
    refine ⟨Nat.one_lt_two_pow (by omega), ?_⟩
    exact (Nat.and_sub_one_eq_zero_iff_isPowerOfTwo (by positivity)).mpr ⟨k, rfl⟩

/-! ### Lengths -/

@[simp] theorem length_loadWords (b : Bank) (n : Nat) (s : State) : (loadWords b n s).length = n := by
  simp [loadWords]

@[simp] theorem length_loadUints (b : Bank) (n : Nat) (s : State) : (loadUints b n s).length = n := by
  simp [loadUints]

@[simp] theorem length_loadResidues (q n : Nat) (s : State) : (loadResidues q n s).length = n := by
  simp [loadResidues]

@[simp] theorem length_loadPairs (b : Bank) (n : Nat) (s : State) : (loadPairs b n s).length = n := by
  simp [loadPairs]

@[simp] theorem length_uintWords (xs : List Nat) : (uintWords xs).length = xs.length := by simp [uintWords]

@[simp] theorem length_pairWords (xs : List Cplx) : (pairWords xs).length = 2 * xs.length := by
  induction xs with
  | nil => rfl
  | cons x xs ih => simp only [pairWords, List.flatMap_cons, List.length_append, List.length_cons] at ih ⊢; rw [ih]; simp; omega

@[simp] theorem length_bitRevPermute {α : Type} [Inhabited α] (xs : List α) : (bitRevPermute xs).length = xs.length := by
  simp [bitRevPermute]

@[simp] theorem length_butterflyAt {α ω : Type} (bf : α → α → ω → α × α) (w : ω) (a b : Nat) (xs : List α) :
    (butterflyAt bf w a b xs).length = xs.length := by
  unfold butterflyAt; split <;> simp

theorem length_foldl {α β : Type} (f : List α → β → List α) (hf : ∀ xs b, (f xs b).length = xs.length) (l : List β)
    (xs : List α) : (l.foldl f xs).length = xs.length := by
  induction l generalizing xs with
  | nil => rfl
  | cons b l ih => rw [List.foldl_cons, ih, hf]

@[simp] theorem length_groupPass {α ω : Type} (bf : α → α → ω → α × α) (tw : Nat → ω) (h k : Nat) (xs : List α) :
    (groupPass bf tw h k xs).length = xs.length := length_foldl _ (fun _ _ => length_butterflyAt ..) _ _

@[simp] theorem length_stagePass {α ω : Type} (bf : α → α → ω → α × α) (tw : Nat → ω) (n h : Nat) (xs : List α) :
    (stagePass bf tw n h xs).length = xs.length := length_foldl _ (fun _ _ => length_groupPass ..) _ _

/-- The network keeps the length of its vector. -/
@[simp] theorem length_network {α ω : Type} [Inhabited α] [Inhabited ω] (bf : α → α → ω → α × α)
    (tidx : Nat → Nat → Nat → Nat) (ws : List ω) (xs : List α) : (network bf tidx ws xs).length = xs.length := by
  unfold network
  rw [length_foldl _ (fun _ _ => length_stagePass ..), length_bitRevPermute]

@[simp] theorem length_nttForward (q n : Nat) (s : State) : (nttForward q n s).length = n := by
  simp [nttForward, scaleBy]

@[simp] theorem length_nttInverse (q n i : Nat) (s : State) : (nttInverse q n i s).length = n := by
  simp [nttInverse, scaleBy]

@[simp] theorem length_fftForward (n : Nat) (s : State) : (fftForward n s).length = n := by simp [fftForward]

@[simp] theorem length_fftInverse (n : Nat) (s : State) : (fftInverse n s).length = n := by simp [fftInverse]

@[simp] theorem length_nttTwiddlesFrom (q psi : Nat) : ∀ n t, (nttTwiddlesFrom q psi n t).length = n := by
  intro n; induction n with
  | zero => intro t; rfl
  | succ n ih => intro t; simp [nttTwiddlesFrom, ih]

@[simp] theorem length_nttTwiddles (q psi n : Nat) : (nttTwiddles q psi n).length = n := by simp [nttTwiddles]

@[simp] theorem length_fftTwiddlesFrom (w : Cplx) : ∀ n t, (fftTwiddlesFrom w n t).length = n := by
  intro n; induction n with
  | zero => intro t; rfl
  | succ n ih => intro t; simp [fftTwiddlesFrom, ih]

@[simp] theorem length_fftTwiddles (w : Cplx) (n : Nat) : (fftTwiddles w n).length = n := by simp [fftTwiddles]

/-! ### The twiddle table of ψ -/

theorem nttTwiddlesFrom_getElem (q psi : Nat) : ∀ (n t k : Nat) (h : k < (nttTwiddlesFrom q psi n t).length),
    t < q → (nttTwiddlesFrom q psi n t)[k] = t * psi ^ k % q := by
  intro n
  induction n with
  | zero => intro t k h; simp [nttTwiddlesFrom] at h
  | succ n ih =>
    intro t k h ht
    cases k with
    | zero => simp [nttTwiddlesFrom, Nat.mod_eq_of_lt ht]
    | succ k =>
      have hk : k < (nttTwiddlesFrom q psi n (t * psi % q)).length := by
        rw [length_nttTwiddlesFrom] at h ⊢; omega
      have := ih (t * psi % q) k hk (Nat.mod_lt _ (by omega))
      have e : t * psi % q * psi ^ k % q = t * psi ^ (k + 1) % q := by
        rw [Nat.mul_mod, Nat.mod_mod, ← Nat.mul_mod, pow_succ]
        congr 1
        ring
      exact this.trans e

/-- Entry k of the table is ψ^k mod q (43_transform_engine.md R179). -/
theorem nttTwiddles_getElem {q : Nat} (hq : 0 < q) (psi n k : Nat) (h : k < (nttTwiddles q psi n).length) :
    (nttTwiddles q psi n)[k] = psi ^ k % q := by
  have := nttTwiddlesFrom_getElem q psi n (1 % q) k h (Nat.mod_lt _ hq)
  have e : 1 % q * psi ^ k % q = psi ^ k % q := by rw [Nat.mul_mod, Nat.mod_mod, ← Nat.mul_mod, one_mul]
  exact this.trans e

/-! ### The trial loop -/

/-- A number that passes with every witness passes every run of trials. -/
theorem trialLoop_fst {x : Nat} (h : 2 ≤ x) (hall : ∀ a, 1 ≤ a → a ≤ x - 1 → trialPasses x a = true) :
    ∀ (t : Nat) (g : WitnessGen), (trialLoop x t g).1 = true
  | 0, _ => rfl
  | t + 1, g => by
    have hlt : Config.witness g x % (x - 1) < x - 1 := Nat.mod_lt _ (by omega)
    have hp : trialPasses x (drawWitness g x).1 = true := hall _ (Nat.le_add_right 1 _) (by simp only [drawWitness]; omega)
    simp only [trialLoop, hp, if_true]
    exact trialLoop_fst h hall t _

end Sys2Proof.Machine
end

