-- ==== Sys2Proof/Laws/Binary64.lean ====
section
/-! SUPPORT. What rounding a significand does. -/

namespace Sys2Proof.Machine

/-- The rounded significand is at most half a unit away, and even when it is exactly half away
(43_transform_engine.md R176). -/
theorem roundShift_near (m t : Nat) :
    2 * m ≤ 2 * (roundShift m t * 2 ^ t) + 2 ^ t ∧ 2 * (roundShift m t * 2 ^ t) ≤ 2 * m + 2 ^ t ∧
    (2 * m = 2 * (roundShift m t * 2 ^ t) + 2 ^ t ∨ 2 * (roundShift m t * 2 ^ t) = 2 * m + 2 ^ t →
      roundShift m t % 2 = 0) := by
  have hlt : m % 2 ^ t < 2 ^ t := Nat.mod_lt _ (by positivity)
  have hm : m / 2 ^ t * 2 ^ t + m % 2 ^ t = m := Nat.div_add_mod' m (2 ^ t)
  by_cases h : 2 ^ t < 2 * (m % 2 ^ t) ∨ (2 ^ t = 2 * (m % 2 ^ t) ∧ m / 2 ^ t % 2 = 1)
  · rw [roundShift, if_pos h, Nat.add_mul, one_mul]
    omega
  · rw [roundShift, if_neg h]
    omega

end Sys2Proof.Machine
end

