-- ==== Sys2Proof/Laws/PerInstr.lean ====
section
/-! SUPPORT. The per-instruction facts about the encoding: each command's word has legal fields, and packing a command's
fields and reading them back gives the same fields (30_encoding.md R90, R95). -/

namespace Sys2Proof.Laws

/-- The fields of a command's word are those of its row, and they pass the three checks of 30_encoding.md R95. -/
def EncodingFits.Statement (i : Instr) : Prop :=
  fieldsOf (encode i) = fieldsOfInstr i ∧ (fieldsOf (encode i)).wellFormed = true

theorem EncodingFits.nop : EncodingFits.Statement .nop := ⟨by decide, by decide⟩
theorem EncodingFits.nttInit : EncodingFits.Statement .nttInit := ⟨by decide, by decide⟩
theorem EncodingFits.fftInit : EncodingFits.Statement .fftInit := ⟨by decide, by decide⟩
theorem EncodingFits.nttFwd : EncodingFits.Statement .nttFwd := ⟨by decide, by decide⟩
theorem EncodingFits.fftFwd : EncodingFits.Statement .fftFwd := ⟨by decide, by decide⟩
theorem EncodingFits.nttInv : EncodingFits.Statement .nttInv := ⟨by decide, by decide⟩
theorem EncodingFits.fftInv : EncodingFits.Statement .fftInv := ⟨by decide, by decide⟩
theorem EncodingFits.nttRelease : EncodingFits.Statement .nttRelease := ⟨by decide, by decide⟩
theorem EncodingFits.fftRelease : EncodingFits.Statement .fftRelease := ⟨by decide, by decide⟩
theorem EncodingFits.bitrevW : EncodingFits.Statement .bitrevW := ⟨by decide, by decide⟩
theorem EncodingFits.bitrevC : EncodingFits.Statement .bitrevC := ⟨by decide, by decide⟩
theorem EncodingFits.isprime : EncodingFits.Statement .isprime := ⟨by decide, by decide⟩
theorem EncodingFits.primroot : EncodingFits.Statement .primroot := ⟨by decide, by decide⟩
theorem EncodingFits.rootunity : EncodingFits.Statement .rootunity := ⟨by decide, by decide⟩
theorem EncodingFits.egcd : EncodingFits.Statement .egcd := ⟨by decide, by decide⟩
theorem EncodingFits.modinv : EncodingFits.Statement .modinv := ⟨by decide, by decide⟩
theorem EncodingFits.pow : EncodingFits.Statement .pow := ⟨by decide, by decide⟩
theorem EncodingFits.ispow2 : EncodingFits.Statement .ispow2 := ⟨by decide, by decide⟩
theorem EncodingFits.bitrevn : EncodingFits.Statement .bitrevn := ⟨by decide, by decide⟩

end Sys2Proof.Laws
end

