-- ==== Sys2Proof/Laws/Witness.lean ====
section
/-! SUPPORT. What a run of trials can answer, said once for the four commands that test primality. -/

namespace Sys2Proof.Machine

@[simp] theorem genAfter_zero (g : WitnessGen) (x : Nat) : genAfter g x 0 = g := rfl

theorem genAfter_succ (g : WitnessGen) (x j : Nat) : genAfter g x (j + 1) = genAfter (advanceGen g x) x j := rfl

theorem witnessAt_succ (g : WitnessGen) (x j : Nat) : witnessAt g x (j + 1) = witnessAt (advanceGen g x) x j := rfl

/-- The loop of trials runs until the first witness that fails, or through all of them (41_number_theory.md R121). -/
theorem trialLoop_run (x : Nat) :
    ∀ (t : Nat) (g : WitnessGen), TrialRun t x g (trialLoop x t g).1 (trialLoop x t g).2
  | 0, g => .inl ⟨rfl, fun j hj => absurd hj (Nat.not_lt_zero j), rfl⟩
  | t + 1, g => by
    by_cases h : trialPasses x (drawWitness g x).1 = true
    · have e : trialLoop x (t + 1) g = trialLoop x t (advanceGen g x) := by
        simp only [trialLoop, h, if_true]; rfl
      rw [e]
      rcases trialLoop_run x t (advanceGen g x) with ⟨hv, hp, hg⟩ | ⟨hv, j, hj, hf, hp, hg⟩
      · refine .inl ⟨hv, fun j hj => ?_, hg⟩
        cases j with
        | zero => exact h
        | succ j => exact hp j (by omega)
      · refine .inr ⟨hv, j + 1, by omega, hf, fun i hi => ?_, hg⟩
        cases i with
        | zero => exact h
        | succ i => exact hp i (by omega)
    · have e : trialLoop x (t + 1) g = (false, advanceGen g x) := by
        simp only [trialLoop, h]; rfl
      rw [e]
      exact .inr ⟨rfl, 0, by omega, (Bool.not_eq_true _).mp h, fun i hi => absurd hi (Nat.not_lt_zero i), rfl⟩

/-- The primality test of an odd number from 5 is a run of trials (41_number_theory.md R121). -/
theorem isPrimeCore_run (trials : Nat) {x : Nat} (h5 : 5 ≤ x) (hodd : x % 2 = 1) (g : WitnessGen) :
    TrialRun trials x g (isPrimeCore trials x g).1 (isPrimeCore trials x g).2 := by
  have e : isPrimeCore trials (x : Int) g = trialLoop x trials g := by
    unfold isPrimeCore
    rw [if_neg (by omega), if_neg (by omega), if_neg (by omega)]
    rfl
  rw [e]
  exact trialLoop_run x trials g

end Sys2Proof.Machine
end

