-- ==== Sys2Proof/Machine/HostProgram.lean ====
section
/-! DEFINITION. The host-program notation and its pseudo-instructions, expanded to the events of a schedule
(30_encoding.md R100, R101). It gives the host agent's side of a run; the block itself sees the events only. -/

namespace Sys2Proof.Machine

/-- `<loc>` (30_encoding.md R100). -/
inductive Loc where
  | reg (r : Reg)
  | word (b : Bank) (k : Nat)
  | raw (a : BusAddr)
  deriving DecidableEq, Repr

/-- `addr(loc)` (30_encoding.md R100). -/
def locAddr : Loc → BusAddr
  | .reg r => BitVec.ofNat 24 (regOffset r)
  | .word b k => BitVec.ofNat 24 (bankAddr b k)
  | .raw a => a

/-- One line of a host program (30_encoding.md R100, R101). `await` is `wait`, which reads STATUS one or more times, and
`awaitIrq` is `waitirq`. DESIGN CHOICE (log entry 12): how many reads of a `wait` come before the completion, and whether
a `waitirq` ends by the completion of the command in flight (true) or at once by a PEND that is already 1 (false,
70_reset_and_hazards.md R250 H8), are arguments of the line. -/
inductive HostLine where
  | write (l : Loc) (v : Word)
  | read (l : Loc)
  | cmd (i : Instr)
  | await (earlyReads : Nat)
  | awaitIrq (byCompletion : Bool)
  | check (code : BitVec 8)
  deriving DecidableEq, Repr

/-- A Read as every line spells it, strobe 0xFF (30_encoding.md R100). -/
def readEvent (l : Loc) : Event := .host (.read (locAddr l) 0xFF)

/-- A Write as every line spells it, strobe 0xFF (30_encoding.md R100). -/
def writeEvent (l : Loc) (v : Word) : Event := .host (.write (locAddr l) 0xFF v)

/-- The events of a line (30_encoding.md R100, R101). DESIGN CHOICE (log entry 12): a `waitirq` is its IRQ write, with
the engine's turn before it when it ends by the completion; that the irq output is 1 when the write comes is the host's
wait and is not tested here: `awaitIrqEnds` says it. -/
def lineEvents : HostLine → List Event
  | .write l v => [writeEvent l v]
  | .read l => [readEvent l]
  | .cmd i => [writeEvent (.reg .cmd) (encode i)]
  | .await n => List.replicate n (readEvent (.reg .status)) ++ [.engine, readEvent (.reg .status)]
  | .awaitIrq true => [.engine, writeEvent (.reg .irq) 1]
  | .awaitIrq false => [writeEvent (.reg .irq) 1]
  | .check _ => [readEvent (.reg .status)]

/-- The condition under which a `waitirq` ends and its IRQ write comes: the irq output is 1 (30_encoding.md R101,
60_exceptions.md R220). -/
def awaitIrqEnds (s : State) : Bool := irqLine s

/-- What `check <code>` asserts of the STATUS word it reads (30_encoding.md R101). -/
def checkHolds (code : BitVec 8) (status : Word) : Bool :=
  status.getLsbD 1 && status.extractLsb' 8 8 == code

/-- The events of a host program, in order (30_encoding.md R100). -/
def programEvents (p : List HostLine) : List Event := p.flatMap lineEvents

/-- `write OPA, v` and its like. -/
def writeRegLine (r : Reg) (v : Int) : HostLine := .write (.reg r) (bits64 v)

/-! The composite pseudo-instructions of 30_encoding.md R101. Each ends with a `wait`, whose number `early` of STATUS reads
before the completion is an argument of the composite too (DESIGN CHOICE, log entry 12). -/

/-- `ntt.init q, n` (30_encoding.md R101, log entry 12). -/
def nttInitLines (q n : Int) (early : Nat) : List HostLine :=
  [writeRegLine .opa q, writeRegLine .opb n, .cmd .nttInit, .await early]

/-- `fft.init n` (30_encoding.md R101, log entry 12). -/
def fftInitLines (n : Int) (early : Nat) : List HostLine := [writeRegLine .opb n, .cmd .fftInit, .await early]

/-- `ntt.fwd len`, `ntt.inv len`, `fft.fwd len`, `fft.inv len`, `bitrev.w len`, `bitrev.c len`: one shape, with the
command (30_encoding.md R101, log entry 12). -/
def vectorLines (i : Instr) (len : Int) (early : Nat) : List HostLine :=
  [writeRegLine .len len, .cmd i, .await early]

/-- `isprime x`, `primroot m`, `ispow2 x`: one shape, with the command (30_encoding.md R101, log entry 12). -/
def unaryLines (i : Instr) (x : Int) (early : Nat) : List HostLine := [writeRegLine .opa x, .cmd i, .await early]

/-- `rootunity m, k`, `egcd a, b`, `modinv a, m`, `bitrevn v, w`: one shape, with the command (30_encoding.md R101, log
entry 12). -/
def binaryLines (i : Instr) (x y : Int) (early : Nat) : List HostLine :=
  [writeRegLine .opa x, writeRegLine .opb y, .cmd i, .await early]

/-- `pow b, e, m` (30_encoding.md R101, log entry 12). -/
def powLines (b e m : Int) (early : Nat) : List HostLine :=
  [writeRegLine .opa b, writeRegLine .opb e, writeRegLine .opc m, .cmd .pow, .await early]

/-- `load.in k, v0, v1, …` (30_encoding.md R101). -/
def loadInLines : Nat → List Word → List HostLine
  | _, [] => []
  | k, v :: vs => .write (.word .inBank k) v :: loadInLines (k + 1) vs

end Sys2Proof.Machine
end

