-- ==== Sys2Proof/Tests/Slice0.lean ====
section
/-! SUPPORT. The project's own tests: the checks of an ill-formed word or transaction, the decoding of words written out
from the encoding table, small steps against the vectors of 95_test_vectors.md, and one witness for the hypotheses of
each statement that has some. -/

-- One theorem at a time: each kernel evaluation otherwise holds a thread of its own, and the compile can run out of them.
set_option Elab.async false

namespace Sys2Proof.Machine

/-! ### Helpers -/

/-- The next state of an outcome. -/
def after (o : Host.Outcome State Fault Refusal) : State :=
  match o with
  | .next s => s
  | .fault _ => State.reset
  | .refused _ => State.reset

/-- The outcome is a next state. -/
def isNext (o : Host.Outcome State Fault Refusal) : Bool :=
  match o with
  | .next _ => true
  | .fault _ => false
  | .refused _ => false

theorem next_after {o : Host.Outcome State Fault Refusal} (h : isNext o = true) : o = .next (after o) := by
  cases o with
  | next s => rfl
  | fault f => simp [isNext] at h
  | refused r => simp [isNext] at h

/-- The reset state with operands. -/
def withOps (a b c : Int) : State := { State.reset with opa := bits64 a, opb := bits64 b, opc := bits64 c }

/-- RES0 to RES2 and ERRCODE after a command on operands, as numbers. -/
def resOf (i : Instr) (a b c : Int) : List Int × Nat :=
  let t := after (exec i (withOps a b c))
  ([sint t.res0, sint t.res1, sint t.res2], t.status.errcode.toNat)

/-- The reset state with a length and words in IN. -/
def withIn (len : Nat) (vs : List Word) : State := bankWriteAll .inBank vs { State.reset with len := natBits64 len }

/-- A ready NTT engine of a prime q, with words in IN and LEN = n. -/
def nttState (q n : Nat) (vs : List Word) : State :=
  match nttParameters q n with
  | .ok (psi, psiInv, nInv) => bankWriteAll .inBank vs { buildNtt q n psi psiInv nInv State.reset with len := natBits64 n }
  | .error _ => State.reset

/-- A ready FFT engine of n points, with words in IN and LEN = n. -/
def fftState (n : Nat) (vs : List Word) : State :=
  bankWriteAll .inBank vs { buildFft n State.reset with len := natBits64 n }

/-- The state just after a command word was accepted, with the engine's turn next. -/
def inFlight (c : Word) : State := { accept c State.reset with schedule := [.engine] }

/-- OUT words 0 .. n - 1 after a command, as numbers, and ERRCODE. -/
def outOf (i : Instr) (n : Nat) (s : State) : List Nat × Nat :=
  let t := after (exec i s)
  (loadUints .outBank n t, t.status.errcode.toNat)

/-- The last answer after one transaction. -/
def answer (t : Transaction) (s : State) : Option Response := (serve t s).responses.head?

/-! ### Ill-formed words and transactions are refused -/

theorem test_wf_reserved_bits : (CmdFields.mk 1 0 0x00).wellFormed = false := by decide
theorem test_wf_unassigned_low : (CmdFields.mk 0 0 0x06).wellFormed = false := by decide
theorem test_wf_unassigned_high : (CmdFields.mk 0 0 0x18).wellFormed = false := by decide
theorem test_wf_domain_of_nop : (CmdFields.mk 0 1 0x00).wellFormed = false := by decide
theorem test_wf_domain_of_utility : (CmdFields.mk 0 1 0x10).wellFormed = false := by decide
theorem test_wf_strobe : (Transaction.read 0x000010 0x0F).legal = false := by decide
theorem test_wf_misaligned : (Transaction.write 0x000014 0xFF 5).legal = false := by decide
theorem test_wf_legal_write : (Transaction.write 0x000038 0xFF 5).legal = true := by decide

/-! ### Decoding: every word written out from 30_encoding.md R93, and the illegal words of 95_test_vectors.md 2.1 -/

theorem test_decode_nop : decode 0b0_00000000 = .ok .nop := by decide
theorem test_decode_ntt_init : decode 0b0_00000001 = .ok .nttInit := by decide
theorem test_decode_fft_init : decode 0b1_00000001 = .ok .fftInit := by decide
theorem test_decode_ntt_fwd : decode 0b0_00000010 = .ok .nttFwd := by decide
theorem test_decode_fft_fwd : decode 0b1_00000010 = .ok .fftFwd := by decide
theorem test_decode_ntt_inv : decode 0b0_00000011 = .ok .nttInv := by decide
theorem test_decode_fft_inv : decode 0b1_00000011 = .ok .fftInv := by decide
theorem test_decode_ntt_release : decode 0b0_00000100 = .ok .nttRelease := by decide
theorem test_decode_fft_release : decode 0b1_00000100 = .ok .fftRelease := by decide
theorem test_decode_bitrev_w : decode 0b0_00000101 = .ok .bitrevW := by decide
theorem test_decode_bitrev_c : decode 0b1_00000101 = .ok .bitrevC := by decide
theorem test_decode_isprime : decode 0b0_00010000 = .ok .isprime := by decide
theorem test_decode_primroot : decode 0b0_00010001 = .ok .primroot := by decide
theorem test_decode_rootunity : decode 0b0_00010010 = .ok .rootunity := by decide
theorem test_decode_egcd : decode 0b0_00010011 = .ok .egcd := by decide
theorem test_decode_modinv : decode 0b0_00010100 = .ok .modinv := by decide
theorem test_decode_pow : decode 0b0_00010101 = .ok .pow := by decide
theorem test_decode_ispow2 : decode 0b0_00010110 = .ok .ispow2 := by decide
theorem test_decode_bitrevn : decode 0b0_00010111 = .ok .bitrevn := by decide
theorem test_decode_dom_nop : decode 0x100 = .error .illegalDomain := by decide
theorem test_decode_opcode_06 : decode 0x006 = .error .unassignedOpcode := by decide
theorem test_decode_opcode_18 : decode 0x018 = .error .unassignedOpcode := by decide
theorem test_decode_dom_isprime : decode 0x110 = .error .illegalDomain := by decide
theorem test_decode_bit9 : decode 0x200 = .error .reservedBits := by decide
theorem test_decode_bit63 : decode 0x8000000000000002 = .error .reservedBits := by decide
theorem test_table_word_in_range : decodeTableWord 64 0x105 = some .bitrevC := by decide
theorem test_table_word_runs :
    (after (step (State.reset.withFetchWord 64 0x001))).status.word = 0x0000000000000206 := by decide

/-! ### Small steps, expected values from 95_test_vectors.md -/

-- 2.1, E1 and E5
theorem test_nop_status : (after (step (inFlight 0x000))).status.word = 0x0000000000000002 := by decide
theorem test_illegal_status : (after (step (inFlight 0x100))).status.word = 0x0000000000001006 := by decide

-- 2.3: 25 with witness 7 passes, with witness 2 does not; 2047 with witness 2 passes, with 3 does not
theorem test_trial_witnesses :
    trialPasses 25 7 = true ∧ trialPasses 2047 2 = true ∧ trialPasses 25 2 = false ∧ trialPasses 2047 3 = false ∧
      trialPasses 561 2 = false := by decide +kernel
theorem test_isprime_no_draw :
    resOf .isprime 2 0 0 = ([1, 0, 0], 0) ∧ resOf .isprime (-7) 0 0 = ([0, 0, 0], 0) ∧
      resOf .isprime 4 0 0 = ([0, 0, 0], 0) := by decide

/-- Every witness passes the trial of 17, a prime. -/
theorem passes_17 : ∀ a, 1 ≤ a → a ≤ 17 - 1 → trialPasses 17 a = true := by decide +kernel

/-- So 17 is found prime whatever the generator yields. -/
theorem testPrime_17 (s : State) : (testPrime 17 s).1 = true := trialLoop_fst (by decide) passes_17 _ _

theorem test_isprime_17 : (after (exec .isprime (withOps 17 0 0))).res0 = 1 := by
  have h : testPrime (sint (bits64 17)) (withOps 17 0 0) = (true, (testPrime 17 (withOps 17 0 0)).2) :=
    Prod.ext (testPrime_17 _) rfl
  show natBits64 (testPrime (sint (bits64 17)) (withOps 17 0 0)).1.toNat = 1
  rw [h]; rfl

-- 2.4 and 2.5, the searches behind PRIMROOT and ROOTUNITY
theorem test_primroot_search :
    primRootSearch 7681 = .ok 17 ∧ primRootSearch 23 = .ok 5 ∧
      primRootSearch 2 = .error .primitiveRootNotFound := by decide +kernel
theorem test_primroot_errors :
    resOf .primroot 2 0 0 = ([0, 0, 0], 0x05) ∧ resOf .primroot 10 0 0 = ([0, 0, 0], 0x03) := by decide
theorem test_rootunity_core :
    rootOfUnityCore 7681 256 = .ok 2028 ∧ rootOfUnityCore 11 3 = .error .invalidOrder ∧
      rootOfUnityCore 7681 1 = .error .rootDegenerate := by decide +kernel
theorem test_rootunity_errors :
    resOf .rootunity 3 2 0 = ([2, 0, 0], 0) ∧ resOf .rootunity 2 1 0 = ([0, 0, 0], 0x05) ∧
      resOf .rootunity 10 3 0 = ([0, 0, 0], 0x03) := by decide

-- 2.6
theorem test_egcd_signs :
    resOf .egcd 240 46 0 = ([2, -9, 47], 0) ∧ resOf .egcd 4 7681 0 = ([1, -1920, 1], 0) := by decide +kernel
theorem test_egcd_corners :
    resOf .egcd 0 0 0 = ([0, 1, 0], 0) ∧ resOf .egcd (-1) 5 0 = ([0, 0, 0], 0x15) := by decide

-- 2.7
theorem test_modinv_values :
    resOf .modinv 1925 7681 0 = ([1213, 0, 0], 0) ∧ resOf .modinv (-1) 7 0 = ([6, 0, 0], 0) := by decide +kernel
theorem test_modinv_corners :
    resOf .modinv 5 1 0 = ([0, 0, 0], 0) ∧ resOf .modinv 6 9 0 = ([0, 0, 0], 0x06) ∧
      resOf .modinv 3 (-7) 0 = ([0, 0, 0], 0x13) := by decide

-- 2.8
theorem test_pow_values :
    resOf .pow 17 960 7681 = ([1925, 0, 0], 0) ∧ resOf .pow (-2) 3 7 = ([6, 0, 0], 0) ∧
      resOf .pow 3 (-1) 7 = ([5, 0, 0], 0) := by decide +kernel
theorem test_pow_corners :
    resOf .pow 5 0 1 = ([0, 0, 0], 0) ∧ resOf .pow 3 (-5) 0 = ([0, 0, 0], 0x07) ∧
      resOf .pow 2 5 0 = ([0, 0, 0], 0x13) := by decide

-- 2.9
theorem test_ispow2_true :
    resOf .ispow2 256 0 0 = ([1, 0, 0], 0) ∧ resOf .ispow2 (2 ^ 62) 0 0 = ([1, 0, 0], 0) := by decide +kernel
theorem test_ispow2_false :
    resOf .ispow2 1 0 0 = ([0, 0, 0], 0) ∧ resOf .ispow2 (-2 ^ 63) 0 0 = ([0, 0, 0], 0) := by decide +kernel

-- 2.10
theorem test_bitrevn_full_width :
    (after (exec .bitrevn { State.reset with opa := 0x0123456789ABCDEF, opb := 64 })).res0 = 0xF7B3D591E6A2C480 := by
  decide +kernel
theorem test_bitrevn_range :
    resOf .bitrevn 1 65 0 = ([0, 0, 0], 0x15) ∧ resOf .bitrevn 1 (-1) 0 = ([0, 0, 0], 0x15) ∧
      resOf .bitrevn 6 3 0 = ([3, 0, 0], 0) := by decide

-- 2.11, V1, V9, V4, V10
theorem test_bitrev_w_eight :
    outOf .bitrevW 8 (withIn 8 [10, 11, 12, 13, 14, 15, 16, 17]) = ([10, 14, 12, 16, 11, 15, 13, 17], 0) := by
  decide +kernel
theorem test_bitrev_w_errors :
    (outOf .bitrevW 0 (withIn 6 [])).2 = 0x08 ∧ (outOf .bitrevW 0 (withIn 8192 [])).2 = 0x12 := by decide +kernel
theorem test_bitrev_c_four :
    outOf .bitrevC 8 (withIn 4 [1, 2, 3, 4, 5, 6, 7, 8]) = ([1, 2, 5, 6, 3, 4, 7, 8], 0) := by decide +kernel
theorem test_bitrev_c_capacity : (outOf .bitrevC 0 (withIn 0x8000000000000000 [])).2 = 0x12 := by decide +kernel

-- 2.12
theorem test_ntt_parameters :
    nttParameters 7681 4 = .ok (1925, 1213, 5761) ∧ nttParameters 17 8 = .ok (3, 6, 15) ∧
      nttTwiddles 7681 1213 4 = [1, 1213, 4298, 5756] := by decide +kernel
theorem test_ntt_init_17 :
    (after (exec .nttInit (withOps 17 2 0))).ntt = { q := 17, n := 2, psi := 13, psiInv := 4, nInv := 9 } := by
  have h : testPrime (sint (bits64 17)) (releaseNtt (withOps 17 2 0))
      = (true, (testPrime 17 (releaseNtt (withOps 17 2 0))).2) := Prod.ext (testPrime_17 _) rfl
  have hp : nttParameters 17 2 = .ok (13, 4, 9) := by decide +kernel
  show (after (execNttInit (withOps 17 2 0))).ntt = _
  simp only [execNttInit]
  rw [if_neg (by decide), if_neg (by decide +kernel)]
  erw [h]
  rw [if_neg (by decide)]
  erw [hp]
  rfl
theorem test_ntt_release : (after (exec .nttRelease (nttState 7681 4 []))).status.word = 0x0000000000000002 := by
  decide +kernel
theorem test_ntt_release_keeps_table :
    loadUints .twnFwd 4 (after (exec .nttRelease (nttState 7681 4 []))) = [1, 1925, 3383, 6468] := by decide +kernel

-- 2.13, N1, N11, N3, N20
theorem test_ntt_fwd : outOf .nttFwd 4 (nttState 7681 4 [1, 2, 3, 4]) = ([1467, 2807, 3471, 7621], 0) := by
  decide +kernel
theorem test_ntt_fwd_reduces :
    outOf .nttFwd 4 (nttState 7681 4 [0xFFFFFFFFFFFFFFFF, 0x1E01, 0x1E02, 0x7FFFFFFFFFFFFFFF])
      = ([1988, 4065, 4776, 4529], 0) := by decide +kernel
theorem test_ntt_inv : outOf .nttInv 4 (nttState 7681 4 [1467, 2807, 3471, 7621]) = ([1, 2, 3, 4], 0) := by
  decide +kernel
theorem test_ntt_inv_not_ready : (outOf .nttInv 0 (withIn 3 [])).2 = 0x11 := by decide

-- 2.14
theorem test_fft_init_four :
    let t := after (exec .fftInit (withOps 0 4 0))
    t.fft = { n := 4, wRe := 0x0000000000000000, wIm := 0xBFF0000000000000 } ∧
      bankRead .twfFwd 5 t = 0x8000000000000000 ∧ bankRead .twfInv 5 t = 0 := by decide +kernel
theorem test_fft_init_rom_entry_12 :
    romFwd 12 = ⟨0x3FEFFFFD88586EE6, 0xBF5921FAAEE6472E⟩ ∧
      (after (exec .fftInit (withOps 0 8192 0))).status.errcode = 0x12 := by decide +kernel
theorem test_fft_release : (after (exec .fftRelease (fftState 2 []))).status.word = 0x0000000000000002 := by
  decide +kernel

-- 2.15, F3, F13, F2, and an INVALID_LENGTH (S6)
theorem test_fft_fwd_four :
    outOf .fftFwd 8 (fftState 4 [0x3FF0000000000000, 0, 0x4000000000000000, 0, 0x4008000000000000, 0, 0x4010000000000000, 0])
      = ([0x4024000000000000, 0, 0xC000000000000000, 0x4000000000000000, 0xC000000000000000, 0, 0xC000000000000000,
        0xC000000000000000], 0) := by decide +kernel
theorem test_fft_fwd_infinity :
    outOf .fftFwd 4 (fftState 2 [0, 0, 0x7FF0000000000000, 0])
      = ([0x7FF0000000000000, 0x7FF8000000000000, 0xFFF0000000000000, 0x7FF8000000000000], 0) := by decide +kernel
theorem test_fft_inv_two :
    outOf .fftInv 4 (fftState 2 [0x4020000000000000, 0, 0xC000000000000000, 0])
      = ([0x4008000000000000, 0, 0x4014000000000000, 0], 0) := by decide +kernel
theorem test_fft_inv_length :
    (outOf .fftInv 0 { fftState 4 [] with len := 3 }).2 = 0x01 := by decide +kernel

-- 2.2, B1, B12, B14, B21, B24, B25, B27
theorem test_bus_id : answer (.read 0x000000 0xFF) State.reset = some (.read .okay 0x4E54544201000C03) := by decide
theorem test_bus_past_window :
    answer (.read 0x10FFF8 0xFF) State.reset = some (.read .okay 0) ∧
      answer (.read 0x110000 0xFF) State.reset = some (.read .error 0) := by decide +kernel
theorem test_bus_table_read_only :
    answer (.read 0x300000 0xFF) (serve (.write 0x300000 0xFF 9) (nttState 7681 4 [])) = some (.read .okay 1) := by
  decide +kernel
theorem test_bus_overrun :
    (serve (.write 0x000008 0xFF 0) (inFlight 0x001)).status.word = 0x0000000000000009 := by decide
theorem test_bus_mr_trials :
    (serve (.write 0x000028 0xFF 0x0000000100000005) State.reset).mrTrials = 5 ∧
      (serve (.write 0x000028 0xFF 0x0000000100000000) State.reset).mrTrials = 1000 := by decide
theorem test_bus_little_endian :
    byteAt (serve (.write 0x100000 0xFF 0x0102030405060708) State.reset) 0x100000 = 0x08 ∧
      byteAt (serve (.write 0x100000 0xFF 0x0102030405060708) State.reset) 0x100007 = 0x01 := by decide
theorem test_ctrl_enable_then_soft_reset :
    (serve (.write 0x000018 0xFF 0xFFFFFFFFFFFFFFFD) State.reset).irqEn = true ∧
      (serve (.write 0x000018 0xFF 3) (inFlight 0x001)).status.busy = false := by decide

-- 3, P5 rows 2 to 7, as a schedule
theorem test_program_expands :
    programEvents (vectorLines .nttFwd 4 0)
      = [.host (.write 0x000050 0xFF 4), .host (.write 0x000008 0xFF 2), .engine, .host (.read 0x000010 0xFF)] := by
  decide

/-! ### Witnesses of the statements' hypotheses -/

theorem witness_DecodeAndEncodeAgree : Instr.pow.wellFormed = true ∧ decode 0x15 = .ok .pow := by decide

theorem witness_DecodableIffFieldsLegal :
    decode 0x200 = .error .reservedBits ∧ decode 0x18 = .error .unassignedOpcode ∧
      decode 0x117 = .error .illegalDomain ∧ decode 0x017 = .ok .bitrevn := by decide

theorem witness_StepRunsDecodedCommand :
    (inFlight 0x15).status.busy = true ∧ decode (inFlight 0x15).cmd = .ok .pow ∧ Instr.pow.wellFormed = true ∧
      (inFlight 0x15).schedule = .engine :: [] ∧ (accept 0x15 State.reset).status.busy = true ∧
      decode (accept 0x15 State.reset).cmd = .ok .pow ∧ (accept 0x15 State.reset).schedule = [] := by decide

theorem witness_StepRunsDecodedCommand_events :
    { State.reset with schedule := [.host (.write 0x000038 0xFF 5)] }.schedule = .host (.write 0x000038 0xFF 5) :: [] ∧
      { State.reset with schedule := [.engine] }.schedule = .engine :: [] ∧ State.reset.schedule = [] ∧
      State.reset.status.busy = false ∧
      (after (step { State.reset with schedule := [.host (.write 0x000038 0xFF 5)] })).opa = 5 := by decide

theorem witness_IllegalWordCompletes :
    (inFlight 0x18).status.busy = true ∧ decode (inFlight 0x18).cmd = .error .unassignedOpcode ∧
      (inFlight 0x18).schedule = .engine :: [] := by decide

theorem witness_CmdWriteIsAccepted : State.reset.status.busy = false := by decide

theorem witness_CommandFrame :
    exec .bitrevW (withIn 2 [7, 9]) = .next (after (exec .bitrevW (withIn 2 [7, 9]))) ∧ isUtility .bitrevW = false ∧ drawsWitnesses .bitrevW = false ∧
      (∀ b ∈ writtenBanks .bitrevW, inWindow (withIn 2 [7, 9]).config b 0x1FFFFF = false) ∧
      (∀ b ∈ writtenBanks .bitrevW, inWindow (withIn 2 [7, 9]).config b 0x210000 = false) :=
  ⟨next_after (by decide +kernel), by decide +kernel⟩

theorem witness_CodesAreTheMarkedOnes :
    exec .egcd (withOps (-1) 0 0) = .next (after (exec .egcd (withOps (-1) 0 0))) ∧
      (inFlight 0x100).status.busy = true ∧ decode (inFlight 0x100).cmd = .error .illegalDomain :=
  ⟨next_after (by decide), by decide⟩

theorem witness_ErrorCompletionState :
    (exec .egcd (withOps (-1) 0 0) = .next (after (exec .egcd (withOps (-1) 0 0))) ∧
      (after (exec .egcd (withOps (-1) 0 0))).status.err = true ∧ isUtility .egcd = true) ∧
    (exec .nttInit (withOps 17 1 0) = .next (after (exec .nttInit (withOps 17 1 0))) ∧
      (after (exec .nttInit (withOps 17 1 0))).status.err = true ∧ isUtility .nttInit = false) ∧
    (exec .fftInit (withOps 0 1 0) = .next (after (exec .fftInit (withOps 0 1 0))) ∧
      (after (exec .fftInit (withOps 0 1 0))).status.err = true) :=
  ⟨⟨next_after (by decide), by decide⟩, ⟨next_after (by decide), by decide⟩, next_after (by decide), by decide⟩

theorem witness_IsprimeVerdict :
    PlainlyComposite (sint (withOps 1 0 0).opa) ∧ PlainlyComposite (sint (withOps 4 0 0).opa) ∧
      PlainlyComposite (sint (withOps (-2 ^ 63) 0 0).opa) ∧ sint (withOps 2 0 0).opa = 2 ∧
      sint (withOps 3 0 0).opa = 3 ∧ (5 ≤ 5 ∧ 5 % 2 = 1 ∧ sint (withOps 5 0 0).opa = (5 : Nat)) ∧
      (9 % 2 = 1 ∧ sint (withOps 9 0 0).opa = (9 : Nat)) := by decide +kernel

theorem witness_IsprimeAcceptsEveryPrime :
    (Nat.Prime 2 ∧ sint (withOps 2 0 0).opa = (2 : Nat)) ∧
      (Nat.Prime 5 ∧ sint (withOps 5 0 0).opa = (5 : Nat) ∧ 5 ≤ 5) := by
  refine ⟨⟨by norm_num, by decide⟩, by norm_num, by decide, le_refl 5⟩

theorem witness_TrivialWitnessesPass :
    (5 ≤ 5 ∧ 5 % 2 = 1) ∧ (5 - 1 = 1 * 2 ^ 2 ∧ 1 % 2 = 1 ∧ 1 ≤ 4 ∧ 4 ≤ 5 - 1) ∧
      (9 - 1 = 1 * 2 ^ 3 ∧ trialPasses 9 2 = false ∧ trialPasses 9 8 = true) := by decide

theorem witness_WitnessInRange : 2 ≤ 2 ∧ (drawWitness (WitnessGen.seeded 0) 2).1 = 1 := by
  refine ⟨le_refl 2, ?_⟩
  simp [drawWitness, Nat.mod_one]

theorem witness_PrimeFactorsExact : 1 ≤ 1 ∧ primeFactors 7680 = [2, 3, 5] := by decide +kernel

theorem witness_PrimrootIsSmallest :
    (Nat.Prime 3 ∧ 3 ≤ 3 ∧ sint (withOps 3 0 0).opa = (3 : Nat)) ∧
      (5 ≤ 5 ∧ 5 % 2 = 1 ∧ sint (withOps 5 0 0).opa = (5 : Nat)) ∧
      (5 ≤ 9 ∧ 9 % 2 = 1 ∧ sint (withOps 9 0 0).opa = (9 : Nat)) := by
  refine ⟨⟨by norm_num, le_refl 3, by decide⟩, by decide, by decide⟩

theorem witness_RootunityHasExactOrder :
    (Nat.Prime 3 ∧ 2 ≤ 2 ∧ (3 - 1) % 2 = 0 ∧ 3 ≤ 3 ∧ sint (withOps 3 2 0).opa = (3 : Nat) ∧
      sint (withOps 3 2 0).opb = (2 : Nat)) ∧
    (5 ≤ 5 ∧ 5 % 2 = 1 ∧ sint (withOps 5 0 0).opa = (5 : Nat) ∧ sint (withOps 5 0 0).opb < 1) ∧
    (((5 : Nat) : Int) - 1) % sint (withOps 5 3 0).opb ≠ 0 ∧
    (1 ≤ 1 ∧ (5 - 1) % 1 = 0 ∧ sint (withOps 5 1 0).opb = (1 : Nat)) ∧
    ((9 - 1) % 8 = 0 ∧ sint (withOps 9 8 0).opb = (8 : Nat) ∧ sint (withOps 9 8 0).opa = (9 : Nat)) := by
  refine ⟨⟨by norm_num, ?_⟩, ?_⟩ <;> decide

theorem witness_RootSearchErrors :
    sint (withOps 2 0 0).opa = 2 ∧ PlainlyComposite (sint (withOps 1 0 0).opa) ∧
      PlainlyComposite (sint (withOps 4 1 0).opa) ∧
      (Nat.Prime 2 ∧ sint (withOps 2 0 0).opa = (2 : Nat) ∧ sint (withOps 2 0 0).opb < 1) ∧
      (Nat.Prime 3 ∧ sint (withOps 3 4 0).opa = (3 : Nat) ∧ (((3 : Nat) : Int) - 1) % sint (withOps 3 4 0).opb ≠ 0) ∧
      sint (withOps 2 1 0).opb = 1 ∧ (sint (withOps 3 1 0).opa = (3 : Nat) ∧ sint (withOps 3 1 0).opb = 1 ∧ 3 ≤ 3) := by
  refine ⟨by decide, by decide, by decide, ⟨by norm_num, by decide⟩, ⟨by norm_num, by decide⟩, by decide, by decide⟩

theorem witness_EgcdGivesBezout :
    (0 ≤ sint (withOps 0 0 0).opa ∧ 0 ≤ sint (withOps 0 0 0).opb) ∧
      0 ≤ sint (withOps (2 ^ 63 - 1) (2 ^ 63 - 1) 0).opa ∧
      sint (withOps (-1) 0 0).opa < 0 ∧ sint (withOps 0 (-2 ^ 63) 0).opb < 0 := by decide +kernel

theorem witness_ModinvInverts :
    (0 < sint (withOps (-1) 1 0).opb ∧ Int.gcd (sint (withOps (-1) 1 0).opa) (sint (withOps (-1) 1 0).opb) = 1) ∧
      (0 < sint (withOps 0 2 0).opb ∧ Int.gcd (sint (withOps 0 2 0).opa) (sint (withOps 0 2 0).opb) ≠ 1) ∧
      sint (withOps 0 0 0).opb ≤ 0 := by decide +kernel

theorem witness_PowComputesPower : 0 ≤ sint (withOps 0 0 1).opb ∧ 0 < sint (withOps 0 0 1).opc := by decide

theorem witness_PowInverseAndErrors :
    (sint (withOps 3 (-1) 1).opb = -1 ∧ 0 < sint (withOps 3 (-1) 1).opc ∧ Int.gcd (sint (withOps 3 (-1) 1).opa) 1 = 1) ∧
      (sint (withOps 0 (-1) 2).opb = -1 ∧ 0 < sint (withOps 0 (-1) 2).opc ∧
        Int.gcd (sint (withOps 0 (-1) 2).opa) (sint (withOps 0 (-1) 2).opc) ≠ 1) ∧
      sint (withOps 3 (-2) 0).opb < -1 ∧
      (-1 ≤ sint (withOps 3 (-1) 0).opb ∧ sint (withOps 3 (-1) 0).opc ≤ 0) := by decide +kernel

theorem witness_IsPow2Exact :
    -2 ^ 63 ≤ (-2 ^ 63 : Int) ∧ (2 ^ 63 - 1 : Int) < 2 ^ 63 ∧ isPow2Int (2 ^ 62) = true ∧ isPow2Int 2 = true := by
  decide +kernel

theorem witness_Ispow2Decides :
    (∃ k : Nat, 1 ≤ k ∧ k ≤ 62 ∧ sint (withOps (2 ^ 62) 0 0).opa = 2 ^ k) ∧
      ¬ ∃ k : Nat, 1 ≤ k ∧ k ≤ 62 ∧ sint (withOps 1 0 0).opa = 2 ^ k := by
  refine ⟨⟨62, by decide, by decide, by decide +kernel⟩, ?_⟩
  rintro ⟨k, hk, -, h⟩
  have h1 : (1 : Int) = 2 ^ k := h
  have : (2 : Int) ^ 1 ≤ 2 ^ k := pow_le_pow_right₀ (by norm_num) hk
  omega

theorem witness_BitrevnReversesWord :
    uint (withOps 1 64 0).opb ≤ 64 ∧ 64 < uint (withOps 1 65 0).opb := by decide

theorem witness_BitRevPermuteInvolution :
    [5].length = 2 ^ 0 ∧ [10, 11, 12, 13].length = 2 ^ 2 ∧ bitRevPermute [10, 11, 12, 13] = [10, 12, 11, 13] := by
  decide +kernel

theorem witness_BitrevWPermutes :
    ((withIn 2 []).mem.wf = true ∧ isPow2 (uint (withIn 2 []).len) = true ∧
      uint (withIn 2 []).len ≤ (withIn 2 []).config.nMax) ∧
    ((withIn 4096 [1]).mem.wf = true ∧ isPow2 (uint (withIn 4096 [1]).len) = true ∧
      uint (withIn 4096 [1]).len ≤ (withIn 4096 [1]).config.nMax) := by decide +kernel

theorem witness_BitrevCPermutesPairs :
    (withIn 4096 [1, 2]).mem.wf = true ∧ isPow2 (uint (withIn 4096 [1, 2]).len) = true ∧
      uint (withIn 4096 [1, 2]).len ≤ (withIn 4096 [1, 2]).config.nMax := by decide +kernel

theorem witness_BitrevErrors :
    (¬ ∃ k : Nat, 1 ≤ k ∧ uint (withIn 1 []).len = 2 ^ k) ∧
      (∃ k : Nat, 1 ≤ k ∧ uint (withIn 8192 []).len = 2 ^ k) ∧ (withIn 8192 []).config.nMax < uint (withIn 8192 []).len := by
  refine ⟨?_, ⟨13, by decide, by decide +kernel⟩, by decide +kernel⟩
  rw [← isPow2_iff]
  decide

theorem witness_NttInitBuildsEngine :
    (withOps 5 2 0).mem.wf = true ∧ Nat.Prime 5 ∧ sint (withOps 5 2 0).opa = (5 : Nat) ∧
      sint (withOps 5 2 0).opb = (2 : Nat) ∧ isPow2 2 = true ∧ 2 ≤ (withOps 5 2 0).config.nMax ∧
      (5 - 1) % (2 * 2) = 0 := by
  refine ⟨by decide, by norm_num, by decide +kernel⟩

theorem witness_NttInitChecksInOrder :
    (¬ ∃ k : Nat, 1 ≤ k ∧ sint (withOps 17 1 0).opb = 2 ^ k) ∧
    ((∃ k : Nat, 1 ≤ k ∧ sint (withOps 17 8192 0).opb = 2 ^ k) ∧
      ((withOps 17 8192 0).config.nMax : Int) < sint (withOps 17 8192 0).opb) ∧
    ((∃ k : Nat, 1 ≤ k ∧ sint (withOps 4 4096 0).opb = 2 ^ k) ∧
      sint (withOps 4 4096 0).opb ≤ (withOps 4 4096 0).config.nMax ∧ PlainlyComposite (sint (withOps 4 4096 0).opa)) ∧
    ((∃ k : Nat, 1 ≤ k ∧ sint (withOps 2 2 0).opb = 2 ^ k) ∧ sint (withOps 2 2 0).opb ≤ (withOps 2 2 0).config.nMax ∧
      Nat.Prime 2 ∧ sint (withOps 2 2 0).opa = (2 : Nat) ∧ (((2 : Nat) : Int) - 1) % (2 * sint (withOps 2 2 0).opb) ≠ 0) := by
  refine ⟨?_, ⟨⟨13, by decide, by decide +kernel⟩, by decide +kernel⟩,
    ⟨⟨12, by decide, by decide +kernel⟩, by decide +kernel, by decide +kernel⟩,
    ⟨⟨1, by decide, by decide⟩, by decide +kernel, by norm_num, by decide, by decide⟩⟩
  rintro ⟨k, hk, h⟩
  have h1 : (1 : Int) = 2 ^ k := h
  have : (2 : Int) ^ 1 ≤ 2 ^ k := pow_le_pow_right₀ (by norm_num) hk
  omega

theorem witness_NttInitChecksInOrder_odd :
    (5 % 2 = 1 ∧ sint (withOps 5 2 0).opa = (5 : Nat) ∧ sint (withOps 5 2 0).opb = (2 : Nat) ∧ isPow2 2 = true ∧
      2 ≤ (withOps 5 2 0).config.nMax ∧ (5 - 1) % (2 * 2) = 0 ∧ (2 ^ ((5 - 1) / (2 * 2)) % 5) ^ 2 % 5 = 5 - 1 ∧
      (withOps 5 2 0).mem.wf = true) ∧
    (sint (withOps 7 4096 0).opa = (7 : Nat) ∧ 4096 ≤ (withOps 7 4096 0).config.nMax ∧ (7 - 1) % (2 * 4096) ≠ 0) ∧
    (sint (withOps 9 2 0).opa = (9 : Nat) ∧ (9 - 1) % (2 * 2) = 0 ∧
      (2 ^ ((9 - 1) / (2 * 2)) % 9) ^ 2 % 9 ≠ 9 - 1) := by decide +kernel

theorem witness_NttForwardClosedForm :
    (nttState 5 2 [3, 2]).mem.wf = true ∧ (nttState 5 2 [3, 2]).status.nttReady = true ∧
      NttSound (nttState 5 2 [3, 2]) ∧ (uint (nttState 5 2 [3, 2]).ntt.q).Prime ∧
      (nttState 5 2 [3, 2]).len = (nttState 5 2 [3, 2]).ntt.n := by
  refine ⟨by decide +kernel, by decide +kernel, by decide +kernel, ?_, by decide +kernel⟩
  have : uint (nttState 5 2 [3, 2]).ntt.q = 5 := by decide +kernel
  rw [this]; norm_num

theorem witness_NttInverseClosedForm :
    (nttState 17 8 [1, 2]).mem.wf = true ∧ (nttState 17 8 [1, 2]).status.nttReady = true ∧
      NttSound (nttState 17 8 [1, 2]) ∧ (uint (nttState 17 8 [1, 2]).ntt.q).Prime ∧
      (nttState 17 8 [1, 2]).len = (nttState 17 8 [1, 2]).ntt.n := by
  refine ⟨by decide +kernel, by decide +kernel, by decide +kernel, ?_, by decide +kernel⟩
  have : uint (nttState 17 8 [1, 2]).ntt.q = 17 := by decide +kernel
  rw [this]; norm_num

-- q = 5, n = 2: ψ = 2 and the forward transform of [3, 4] is [1, 0]; the inverse of [3, 4] is [1, 2]
theorem witness_NttRoundTrip :
    let s := nttState 5 2 [3, 4]
    let t := after (exec .nttFwd s)
    let u := nttState 5 2 (loadWords .outBank 2 t)
    let t' := after (exec .nttInv s)
    let u' := nttState 5 2 (loadWords .outBank 2 t')
    (s.mem.wf = true ∧ u.mem.wf = true ∧ s.status.nttReady = true ∧ u.status.nttReady = true ∧ NttSound s ∧ NttSound u ∧
      u.ntt = s.ntt ∧ u.config = s.config ∧ s.len = s.ntt.n ∧ u.len = s.ntt.n) ∧
    (∀ i < uint s.ntt.n, uint (bankRead .inBank i s) < uint s.ntt.q) ∧
    (∀ i < uint s.ntt.n, bankRead .inBank i u = bankRead .outBank i t) ∧
    exec .nttFwd s = .next t ∧ exec .nttInv u = .next (after (exec .nttInv u)) ∧
    (u'.mem.wf = true ∧ NttSound u' ∧ u'.status.nttReady = true ∧ u'.ntt = s.ntt ∧ u'.len = s.ntt.n) ∧
    (∀ i < uint s.ntt.n, bankRead .inBank i u' = bankRead .outBank i t') ∧
    exec .nttInv s = .next t' ∧ exec .nttFwd u' = .next (after (exec .nttFwd u')) :=
  ⟨by decide +kernel, by decide +kernel, by decide +kernel, next_after (by decide +kernel), next_after (by decide +kernel),
    by decide +kernel, by decide +kernel, next_after (by decide +kernel), next_after (by decide +kernel)⟩

theorem witness_NttRoundTrip_prime : (uint (nttState 5 2 [3, 4]).ntt.q).Prime := by
  have : uint (nttState 5 2 [3, 4]).ntt.q = 5 := by decide +kernel
  rw [this]; norm_num

-- the product of [3, 4] and [1, 2] modulo x^2 + 1 and 5
theorem witness_NttRoundTrip_convolution :
    let a := nttState 5 2 [3, 4]
    let b := nttState 5 2 [1, 2]
    let ta := after (exec .nttFwd a)
    let tb := after (exec .nttFwd b)
    let u := nttState 5 2 (uintWords (List.zipWith (fun x y => x * y % 5) (loadUints .outBank 2 ta) (loadUints .outBank 2 tb)))
    ((a.mem.wf = true ∧ a.status.nttReady = true ∧ NttSound a ∧ a.len = a.ntt.n) ∧
      (b.mem.wf = true ∧ b.status.nttReady = true ∧ NttSound b ∧ b.len = b.ntt.n) ∧
      (u.mem.wf = true ∧ u.status.nttReady = true ∧ NttSound u ∧ u.len = u.ntt.n) ∧
      b.ntt = a.ntt ∧ u.ntt = a.ntt) ∧
    exec .nttFwd a = .next ta ∧ exec .nttFwd b = .next tb ∧ exec .nttInv u = .next (after (exec .nttInv u)) ∧
    (∀ i < uint a.ntt.n,
      uint (bankRead .inBank i u) = uint (bankRead .outBank i ta) * uint (bankRead .outBank i tb) % uint a.ntt.q) :=
  ⟨by decide +kernel, next_after (by decide +kernel), next_after (by decide +kernel), next_after (by decide +kernel),
    by decide +kernel⟩

theorem witness_TransformChecks :
    State.reset.status.nttReady = false ∧ State.reset.status.fftReady = false ∧
      ((nttState 5 2 []).status.nttReady = true ∧ { nttState 5 2 [] with len := 3 }.len ≠ (nttState 5 2 []).ntt.n) ∧
      ((fftState 2 []).status.fftReady = true ∧ { fftState 2 [] with len := 0 }.len ≠ (fftState 2 []).fft.n) := by
  decide +kernel

theorem witness_FftInitBuildsEngine :
    ((withOps 0 2 0).mem.wf = true ∧ sint (withOps 0 2 0).opb = (2 : Nat) ∧ isPow2 2 = true ∧
      2 ≤ (withOps 0 2 0).config.nMax) ∧
    (sint (withOps 0 4096 0).opb = (4096 : Nat) ∧ isPow2 4096 = true ∧ 4096 ≤ (withOps 0 4096 0).config.nMax) ∧
    (¬ ∃ k : Nat, 1 ≤ k ∧ sint (withOps 0 1 0).opb = 2 ^ k) ∧
    ((∃ k : Nat, 1 ≤ k ∧ sint (withOps 0 8192 0).opb = 2 ^ k) ∧
      ((withOps 0 8192 0).config.nMax : Int) < sint (withOps 0 8192 0).opb) ∧
    (2 = 2 ^ 1 ∧ 4096 = 2 ^ 12) := by
  refine ⟨by decide +kernel, by decide +kernel, ?_, ⟨⟨13, by decide, by decide +kernel⟩, by decide +kernel⟩, by decide⟩
  rintro ⟨k, hk, h⟩
  have h1 : (1 : Int) = 2 ^ k := h
  have : (2 : Int) ^ 1 ≤ 2 ^ k := pow_le_pow_right₀ (by norm_num) hk
  omega

theorem witness_FftForwardRunsNetwork :
    (fftState 2 [1]).mem.wf = true ∧ (fftState 2 [1]).status.fftReady = true ∧
      (fftState 2 [1]).len = (fftState 2 [1]).fft.n ∧ uint (fftState 2 [1]).fft.n ≤ (fftState 2 [1]).config.nMax := by
  decide +kernel

theorem witness_FftForwardRunsNetwork_lists : [7, 9].length = 2 ^ (0 + 1) ∧ [1, 2, 3, 4].length = 2 ^ (1 + 1) := by decide

theorem witness_FftInverseRunsNetwork_ring :
    (-1 : Int) ^ 2 ^ 0 = -1 ∧ [(7 : Int), 9].length = 2 ^ (0 + 1) ∧ (-1 : Int) * -1 = 1 := by decide

theorem witness_FftInverseRunsNetwork :
    let s : State := { State.reset with
      len := 4096, fft := { n := 4096, wRe := 0, wIm := 0 }, status := { Status.cleared with fftReady := true } }
    s.mem.wf = true ∧ s.status.fftReady = true ∧ s.len = s.fft.n ∧ uint s.fft.n ≤ s.config.nMax := by decide +kernel

theorem witness_BinaryArithmeticLaws :
    (f64 0x7FF0000000000001 = .nan ∧ f64 0xFFF0000000000000 = .inf true ∧ f64 0x8000000000000000 = .fin true 0 (-1074) ∧
      f64 0x7FF0000000000000 = .inf false ∧ f64 0x0000000000000001 = .fin false 1 (-1074) ∧ f64 0x7FEFFFFFFFFFFFFF = .fin false (2 ^ 53 - 1) 971) ∧
    (finite64 0x7FEFFFFFFFFFFFFF = true ∧ finite64 0x8000000000000000 = true ∧ finite64 0x0000000000000001 = true) := by
  decide +kernel

theorem witness_BinaryArithmeticLaws_values :
    value64 0x3FF0000000000000 ≠ 0 ∧ value64 0x8000000000000000 = 0 ∧
      value64 0x3FF0000000000000 + value64 0xBFF0000000000000 = 0 ∧
      value64 0x3FF0000000000000 - value64 0x3FF0000000000000 = 0 ∧
      finite64 (natF64 (2 ^ 16)) = true ∧ value64 (natF64 (2 ^ 16)) = 2 ^ 16 := by
  decide +kernel

theorem witness_ReadsAndBadFormsChangeNothing :
    (0xFE : BitVec 8) ≠ 0xFF ∧ (0x000011 : BusAddr).toNat % 8 ≠ 0 ∧ (0x000017 : BusAddr).toNat % 8 ≠ 0 := by decide

theorem witness_ErrorResponsesHaveNoEffect :
    (serve (.read 0x000014 0xFF) State.reset).responses.head? = some (.read .error 0) ∧
      (serve (.write 0x000014 0xFF 5) State.reset).responses.head? = some (.write .error) ∧
      (serve (.write 0x000008 0xFF 0) (inFlight 0)).responses.head? = some (.write .error) := by decide

theorem witness_BusyServesFiveRegisters :
    (inFlight 0).status.busy = true ∧ (0xFFFFFFFFFFFFFFFD : Word).getLsbD 1 = false ∧ (2 : Word).getLsbD 1 = true ∧
      ((0x000028 : BusAddr).toNat % 8 = 0 ∧ 0x28 ≤ (0x000028 : BusAddr).toNat) ∧
      ((0xFFFFF8 : BusAddr).toNat % 8 = 0 ∧ 0x28 ≤ (0xFFFFF8 : BusAddr).toNat) := by decide

theorem witness_WindowsReadAndWrite :
    State.reset.status.busy = false ∧ State.reset.mem.wf = true ∧ 8191 < bankWords State.reset.config .inBank ∧
      8191 < bankWords State.reset.config .outBank ∧ 4095 < bankWords State.reset.config .twnFwd ∧
      8191 < bankWords State.reset.config .twfInv := by decide +kernel

theorem witness_LittleEndianWords : 0 < bankWords State.reset.config .inBank ∧ State.reset.mem.wf = true := by
  decide +kernel

theorem witness_UnmappedAndReserved :
    (0x0FFFF8 : BusAddr).toNat % 8 = 0 ∧ 0x010000 ≤ (0x010000 : BusAddr).toNat ∧
      mappedByte Config.reference (0x010000 : BusAddr).toNat = false ∧
      mappedByte Config.reference (0x0FFFF8 : BusAddr).toNat = false ∧
      mappedByte Config.reference (0x110000 : BusAddr).toNat = false ∧
      mappedByte Config.reference (0xFFFFF8 : BusAddr).toNat = false ∧
      0x0000B0 ≤ (0x0000B0 : BusAddr).toNat ∧ (0x00FFF8 : BusAddr).toNat ≤ 0x00FFF8 ∧
      State.reset.status.busy = false ∧ (inFlight 0).status.busy = true := by decide +kernel

theorem witness_RegisterReadsAndWrites :
    State.reset.status.busy = false ∧ Reg.id ∉ [Reg.cmd, .ctrl, .irq, .mrTrials, .mrSeed, .opa, .opb, .opc, .len] ∧
      Reg.fftWIm ∉ [Reg.cmd, .ctrl, .irq, .mrTrials, .mrSeed, .opa, .opb, .opc, .len] := by decide

theorem witness_MrTrialsRegister :
    State.reset.status.busy = false ∧ (0x0000000100000000 : Word).toNat % 2 ^ 32 = 0 ∧
      (0x0000000100000005 : Word).toNat % 2 ^ 32 ≠ 0 ∧ (inFlight 0).status.busy = true ∧
      readReg (inFlight 0) .mrTrials ≠ 0 ∧ step (inFlight 0) = .next (after (step (inFlight 0))) :=
  ⟨by decide, by decide, by decide, by decide, by decide, next_after (by decide)⟩

theorem witness_MrSeedReseeds :
    State.reset.status.busy = false ∧ (inFlight 0).status.busy = true ∧ (withOps 4 2 0).status.busy = false ∧
      (withOps 4 2 0).config = (withOps 4 2 1).config ∧ (withOps 4 2 0).opa = (withOps 4 2 1).opa ∧
      (withOps 4 2 0).opb = (withOps 4 2 1).opb ∧ (withOps 4 2 0).mrTrials = (withOps 4 2 1).mrTrials ∧
      ∀ i ∈ [Instr.isprime, .primroot, .rootunity, .nttInit], drawsWitnesses i = true ∧
        isNext (exec i (serve (.write (regAddr .mrSeed) 0xFF 42) (withOps 4 2 0))) = true ∧
        isNext (exec i (serve (.write (regAddr .mrSeed) 0xFF 42) (withOps 4 2 1))) = true := by decide +kernel

theorem witness_InterruptLine :
    (inFlight 0).status.busy = true ∧ runEngine (inFlight 0) = .next (after (runEngine (inFlight 0))) ∧
      step (inFlight 0) = .next (after (step (inFlight 0))) ∧ (after (step (inFlight 0))).irqPend = true ∧
      (1 : Word).getLsbD 1 = false :=
  ⟨by decide, next_after (by decide), next_after (by decide), by decide⟩

theorem witness_SoftResetState : (3 : Word).getLsbD 1 = true ∧ (2 : Word).getLsbD 1 = true := by decide

theorem witness_PowerOnState :
    let c : List Host.Cell := [(0x100000, 0xA5), (0x20FFFF, 1)]
    { State.reset with schedule := [.powerOn c] }.schedule = .powerOn c :: [] ∧ Memory.wf c = true ∧
      ∀ x ∈ c, mappedByte State.reset.config x.1 = true := by decide +kernel

theorem witness_StepKeepsBaseInv :
    BaseInv (inFlight 0x15) ∧ step (inFlight 0x15) = .next (after (step (inFlight 0x15))) :=
  ⟨by decide, next_after (by decide)⟩

theorem witness_StepKeepsContextInv :
    let s := { nttState 5 2 [3, 2] with cmd := 2, status := (nttState 5 2 [3, 2]).status.accepted }
    BaseInv s ∧ ContextInv s ∧ step s = .next (after (step s)) :=
  ⟨by decide +kernel, by decide +kernel, next_after (by decide +kernel)⟩

theorem witness_HostCannotDisturbCommand :
    let s := { accept 0x15 State.reset with schedule := [.host (.write 0x000020 0xFF 1)] }
    s.status.busy = true ∧ s.schedule = .host (.write 0x000020 0xFF 1) :: [] ∧
      (after (step s)).status.busy = true := by decide

end Sys2Proof.Machine
end

section
/-! Drawing a witness (00_scope.md R7, 41_number_theory.md R121): the range of the witness, and what the draw does to the
generator. -/

namespace Sys2Proof.Machine

/-! ### One draw and the generator's state -/

/-- How many witnesses a generator has drawn since it was seeded: the lengths of the runs of its history. -/
def drawCount (g : WitnessGen) : Nat := (g.drawn.map Prod.snd).sum

/-- A draw adds one to the history, whether it lengthens the newest run or begins a run. -/
@[simp] theorem drawCount_advanceGen (g : WitnessGen) (x : Nat) : drawCount (advanceGen g x) = drawCount g + 1 := by
  obtain ⟨seed, drawn⟩ := g
  cases drawn with
  | nil => rfl
  | cons run rest =>
    obtain ⟨y, c⟩ := run
    by_cases hyx : y = x
    · simp [drawCount, advanceGen, hyx, Nat.add_right_comm]
    · simp [drawCount, advanceGen, hyx, Nat.add_comm 1]

@[simp] theorem advanceGen_seed (g : WitnessGen) (x : Nat) : (advanceGen g x).seed = g.seed := by
  unfold advanceGen
  split
  · rfl
  · split <;> rfl

/-- No draw returns a generator to the state it was in: the history has grown. -/
theorem advanceGen_ne_self (g : WitnessGen) (x : Nat) : advanceGen g x ≠ g := fun h =>
  Nat.succ_ne_self (drawCount g) ((drawCount_advanceGen g x).symm.trans (congrArg drawCount h))

/-! ### The witness drawn -/

@[simp] theorem drawWitness_gen (g : WitnessGen) (x : Nat) : (drawWitness g x).2 = advanceGen g x := rfl

theorem one_le_drawWitness (g : WitnessGen) (x : Nat) : 1 ≤ (drawWitness g x).1 := Nat.le_add_right 1 _

/-- The raw witness is taken modulo x - 1, which is above 0 from x = 2 on. -/
theorem drawWitness_le_pred (g : WitnessGen) {x : Nat} (hx : 2 ≤ x) : (drawWitness g x).1 ≤ x - 1 := by
  have hmod : Config.witness g x % (x - 1) < x - 1 := Nat.mod_lt _ (by omega)
  simp only [drawWitness]
  omega

/-- Settles O16: the range is that of a remainder modulo x - 1 plus 1, and the generator changes because its history
grows by one draw. -/
theorem witnessInRange : Obligations.WitnessInRange := by
  intro g x hx
  exact ⟨one_le_drawWitness g x, drawWitness_le_pred g hx, advanceGen_ne_self g x, advanceGen_seed g x⟩

end Sys2Proof.Machine
end

section
/-! What a command and a bus access can do to the state, each said once: the effects of a command's body
(40_control.md R111), the end of a command, the effects of a host transaction (20_memory.md R61 to R68). -/

namespace Sys2Proof.Machine

/-! ### The draws of a primality test -/

/-- However many witnesses a test draws, the generator keeps its seed. -/
@[simp] theorem trialLoop_seed (x : Nat) : ∀ (t : Nat) (g : WitnessGen), (trialLoop x t g).2.seed = g.seed
  | 0, _ => rfl
  | t + 1, g => by
    simp only [trialLoop]
    split
    · rw [trialLoop_seed x t, drawWitness_gen, advanceGen_seed]
    · rw [drawWitness_gen, advanceGen_seed]

@[simp] theorem isPrimeCore_seed (trials : Nat) (x : Int) (g : WitnessGen) :
    (isPrimeCore trials x g).2.seed = g.seed := by
  unfold isPrimeCore
  split
  · rfl
  · split
    · rfl
    · split
      · rfl
      · exact trialLoop_seed _ _ _

@[simp] theorem testPrime_seed (x : Int) (s : State) : (testPrime x s).2.seed = s.gen.seed := isPrimeCore_seed _ _ _

/-- No number below 2 is found prime. -/
theorem two_le_of_testPrime {x : Int} {s : State} (h : (testPrime x s).1 = true) : 2 ≤ x := by
  by_contra hx
  simp [testPrime, isPrimeCore, not_le.mp hx] at h

/-! ### The effects of a command -/

/-- Everything the body of a command can do to the state, before its completion: the one place that lists the
commands' effects for the proofs about runs. -/
inductive BodyEffect (s : State) : State → Prop
  /-- NOP, an illegal word, and a check of a transform or of a vector bit reversal that fails. -/
  | nothing : BodyEffect s s
  /-- A utility command writes the result registers, and may draw. -/
  | results (r0 r1 r2 : Word) (g : WitnessGen) (hg : g.seed = s.gen.seed) :
      BodyEffect s (setResults r0 r1 r2 (setGen g s))
  /-- A transform or a vector bit reversal writes OUT. -/
  | output (vs : List Word) : BodyEffect s (bankWriteAll .outBank vs s)
  /-- NTT.RELEASE, or an NTT.INIT that fails. -/
  | nttDestroyed (g : WitnessGen) (hg : g.seed = s.gen.seed) : BodyEffect s (setGen g (releaseNtt s))
  /-- An NTT.INIT that succeeds. -/
  | nttBuilt (g : WitnessGen) (hg : g.seed = s.gen.seed) (q n psi psiInv nInv : Nat)
      (hq : 2 ≤ q) (hq63 : q < 2 ^ 63) (hn : isPow2 n = true) (hmax : n ≤ s.config.nMax)
      (hparams : nttParameters q n = .ok (psi, psiInv, nInv)) :
      BodyEffect s (buildNtt q n psi psiInv nInv (setGen g (releaseNtt s)))
  /-- FFT.RELEASE, or an FFT.INIT that fails. -/
  | fftDestroyed : BodyEffect s (releaseFft s)
  /-- An FFT.INIT that succeeds. -/
  | fftBuilt (n : Nat) (hn : isPow2 n = true) (hmax : n ≤ s.config.nMax) :
      BodyEffect s (buildFft n (releaseFft s))

/-- A command ends when its body's effect is followed by the completion with 0 or the code of an error. -/
inductive CommandEnd (s : State) : State → Prop
  | ok (b : State) (hb : BodyEffect s b) : CommandEnd s (complete 0 b)
  | error (e : ErrorCode) (b : State) (hb : BodyEffect s b) : CommandEnd s (complete e.code b)

/-- RES0 to RES2 cleared and nothing drawn: a utility command that fails its operand check. -/
theorem BodyEffect.cleared (s : State) : BodyEffect s (clearResults s) := .results 0 0 0 s.gen rfl

/-- A utility command that computes one number ends with it or with an error, from the state with the results cleared
and the draws made. -/
theorem finishNat_end {s t : State} {r : Except ErrorCode Nat} {g : WitnessGen} (hg : g.seed = s.gen.seed)
    (h : finishNat r (setGen g (clearResults s)) = .next t) : CommandEnd s t := by
  rcases finishNat_next h with ⟨v, -, rfl⟩ | ⟨e, -, rfl⟩
  · exact .ok _ (.results (natBits64 v) 0 0 g hg)
  · exact .error e _ (.results 0 0 0 g hg)

theorem execPrimroot_end {s t : State} (h : execPrimroot s = .next t) : CommandEnd s t := by
  rcases execPrimroot_next h with ⟨-, rfl⟩ | ⟨-, h⟩
  · exact .error .notPrime _ (.results 0 0 0 _ (testPrime_seed _ s))
  · exact finishNat_end (testPrime_seed _ s) h

theorem execRootunity_end {s t : State} (h : execRootunity s = .next t) : CommandEnd s t := by
  rcases execRootunity_next h with ⟨-, rfl⟩ | ⟨-, h⟩
  · exact .error .notPrime _ (.results 0 0 0 _ (testPrime_seed _ s))
  · exact finishNat_end (testPrime_seed _ s) h

theorem execEgcd_end {s t : State} (h : execEgcd s = .next t) : CommandEnd s t := by
  simp only [execEgcd] at h
  split at h
  · exact raise_next.mp h ▸ .error .operandRange _ (.cleared s)
  · exact succeed_next.mp h ▸ .ok _ (.results _ _ _ s.gen rfl)

theorem execModinv_end {s t : State} (h : execModinv s = .next t) : CommandEnd s t := by
  simp only [execModinv] at h
  split at h
  · exact raise_next.mp h ▸ .error .invalidModulus _ (.cleared s)
  · exact finishNat_end (g := s.gen) rfl h

theorem execPow_end {s t : State} (h : execPow s = .next t) : CommandEnd s t := by
  simp only [execPow] at h
  split at h
  · exact raise_next.mp h ▸ .error .invalidExponent _ (.cleared s)
  · split at h
    · exact raise_next.mp h ▸ .error .invalidModulus _ (.cleared s)
    · split at h
      · exact finishNat_end (g := s.gen) rfl h
      · exact finishNat_end (g := s.gen) rfl h

theorem execBitrevn_end {s t : State} (h : execBitrevn s = .next t) : CommandEnd s t := by
  simp only [execBitrevn] at h
  split at h
  · exact raise_next.mp h ▸ .error .operandRange _ (.cleared s)
  · exact succeed_next.mp h ▸ .ok _ (.results _ _ _ s.gen rfl)

/-- A vector bit reversal writes OUT or fails a check (42_bit_reversal.md R163). -/
theorem withBitrevLength_end {s t : State} {vs : Nat → List Word}
    (h : withBitrevLength s (fun len => bankWriteAll .outBank (vs len) s) = .next t) : CommandEnd s t := by
  rcases withBitrevLength_next h with ⟨-, rfl⟩ | ⟨-, -, rfl⟩ | ⟨-, -, rfl⟩
  · exact .error .lengthNotPowerOfTwo s .nothing
  · exact .error .capacity s .nothing
  · exact .ok _ (.output _)

/-- An NTT transform writes OUT or fails a check (43_transform_engine.md R182). -/
theorem withNttEngine_end {s t : State} {vs : List Word}
    (h : withNttEngine s (bankWriteAll .outBank vs s) = .next t) : CommandEnd s t := by
  rcases withNttEngine_next h with ⟨-, rfl⟩ | ⟨-, -, rfl⟩ | ⟨-, -, rfl⟩
  · exact .error .notReady s .nothing
  · exact .error .invalidLength s .nothing
  · exact .ok _ (.output vs)

/-- An FFT transform writes OUT or fails a check (43_transform_engine.md R186). -/
theorem withFftEngine_end {s t : State} {vs : List Word}
    (h : withFftEngine s (bankWriteAll .outBank vs s) = .next t) : CommandEnd s t := by
  rcases withFftEngine_next h with ⟨-, rfl⟩ | ⟨-, -, rfl⟩ | ⟨-, -, rfl⟩
  · exact .error .notReady s .nothing
  · exact .error .invalidLength s .nothing
  · exact .ok _ (.output vs)

/-- A signed degree that passes the two checks of an INIT is a natural one that passes them. -/
theorem toNat_degree_checks {x : Int} {m : Nat} (hp : isPow2Int x = true) (hm : x ≤ m) :
    isPow2 x.toNat = true ∧ x.toNat ≤ m := by
  simp only [isPow2Int, Bool.and_eq_true, decide_eq_true_eq] at hp
  exact ⟨hp.2, by omega⟩

/-- Every signed operand is below 2^63. -/
theorem sint_lt (v : Word) : sint v < 2 ^ 63 := by
  have hv := v.isLt
  have hmsb : v.getLsbD 63 = decide (2 ^ 63 ≤ v.toNat) :=
    (BitVec.msb_eq_getLsbD_last v).symm.trans (BitVec.msb_eq_decide v)
  simp only [sint, hmsb, decide_eq_true_eq]
  split <;> omega

theorem execNttInit_end {s t : State} (h : execNttInit s = .next t) : CommandEnd s t := by
  have hseed := testPrime_seed (sint s.opa) s
  rcases execNttInit_next h with
    ⟨-, rfl⟩ | ⟨-, -, rfl⟩ | ⟨-, -, -, rfl⟩ | ⟨-, -, -, e, -, rfl⟩ | ⟨hp, hmax, hprime, psi, psiInv, nInv, hok, rfl⟩
  · exact .error .invalidDegree _ (.nttDestroyed s.gen rfl)
  · exact .error .capacity _ (.nttDestroyed s.gen rfl)
  · exact .error .notPrime _ (.nttDestroyed _ hseed)
  · exact .error e _ (.nttDestroyed _ hseed)
  · obtain ⟨hn, hnmax⟩ := toNat_degree_checks hp hmax
    have hq := two_le_of_testPrime hprime
    have hq63 := sint_lt s.opa
    exact .ok _ (.nttBuilt _ hseed _ _ psi psiInv nInv (by omega) (by omega) hn hnmax hok)

theorem execFftInit_end {s t : State} (h : execFftInit s = .next t) : CommandEnd s t := by
  rcases execFftInit_next h with ⟨-, rfl⟩ | ⟨-, -, rfl⟩ | ⟨hp, hmax, rfl⟩
  · exact .error .invalidDegree _ .fftDestroyed
  · exact .error .capacity _ .fftDestroyed
  · obtain ⟨hn, hnmax⟩ := toNat_degree_checks hp hmax
    exact .ok _ (.fftBuilt _ hn hnmax)

/-- Every command ends with one of the listed effects and a completion (40_control.md R111, R112). -/
theorem exec_end {i : Instr} {s t : State} (h : exec i s = .next t) : CommandEnd s t := by
  cases i with
  | nop => exact succeed_next.mp h ▸ .ok s .nothing
  | nttInit => exact execNttInit_end h
  | fftInit => exact execFftInit_end h
  | nttFwd => exact withNttEngine_end h
  | fftFwd => exact withFftEngine_end h
  | nttInv => exact withNttEngine_end h
  | fftInv => exact withFftEngine_end h
  | nttRelease => exact succeed_next.mp h ▸ .ok _ (.nttDestroyed s.gen rfl)
  | fftRelease => exact succeed_next.mp h ▸ .ok _ .fftDestroyed
  | bitrevW => exact withBitrevLength_end (vs := fun len => bitRevPermute (loadWords .inBank len s)) h
  | bitrevC => exact withBitrevLength_end (vs := fun len => pairWords (bitRevPermute (loadPairs .inBank len s))) h
  | isprime => exact execIsprime_next h ▸ .ok _ (.results _ 0 0 _ (testPrime_seed _ s))
  | primroot => exact execPrimroot_end h
  | rootunity => exact execRootunity_end h
  | egcd => exact execEgcd_end h
  | modinv => exact execModinv_end h
  | pow => exact execPow_end h
  | ispow2 => exact succeed_next.mp h ▸ .ok _ (.results _ 0 0 s.gen rfl)
  | bitrevn => exact execBitrevn_end h

/-- The engine's turn does nothing while idle, and ends the command in flight otherwise. -/
theorem runEngine_end {s t : State} (h : runEngine s = .next t) : t = s ∨ (s.status.busy = true ∧ CommandEnd s t) := by
  rcases runEngine_next h with ⟨-, rfl⟩ | ⟨hbusy, i, -, h⟩ | ⟨hbusy, -, rfl⟩
  · exact .inl rfl
  · exact .inr ⟨hbusy, exec_end h⟩
  · exact .inr ⟨hbusy, .error .illegalCommand s .nothing⟩

/-! ### The effects of a host transaction -/

/-- Everything a host transaction can do to the state, apart from the recorded answer (20_memory.md R65 to R68,
10_state.md R24 to R35). -/
inductive HostEffect (s : State) : State → Prop
  /-- A Read, an ERROR, or a Write that is ignored. -/
  | nothing : HostEffect s s
  /-- A write to CMD while BUSY. -/
  | overrun (hbusy : s.status.busy = true) : HostEffect s (overrun s)
  /-- A write to CMD while idle. -/
  | accept (c : Word) : HostEffect s (accept c s)
  /-- A write to CTRL with bit 1 set. -/
  | softReset : HostEffect s (softReset s)
  /-- A write to CTRL with bit 1 clear. -/
  | irqEnable (b : Bool) : HostEffect s { s with irqEn := b }
  /-- A write of 1 to bit 0 of IRQ. -/
  | acknowledge : HostEffect s (acknowledge s)
  /-- A write to MR_TRIALS that is not 0. -/
  | trials (n : BitVec 32) (hn : n ≠ 0) : HostEffect s { s with mrTrials := n }
  /-- A write to MR_SEED. -/
  | seed (v : Word) : HostEffect s (writeMrSeed v s)
  /-- A write to OPA, OPB, OPC or LEN. -/
  | operands (a b c l : Word) : HostEffect s { s with opa := a, opb := b, opc := c, len := l }
  /-- A write to a word of IN or OUT. -/
  | memory (b : Bank) (k : Nat) (v : Word) (hb : hostWritable b = true) : HostEffect s (bankWrite b k v s)

/-- The effect of a register write that is not blocked. -/
theorem writeReg_effect (v : Word) (s : State) (r : Reg) : HostEffect s (writeReg v s r) := by
  cases r with
  | cmd => exact .accept v
  | ctrl =>
    simp only [writeReg, writeCtrl]
    split
    · exact .softReset
    · exact .irqEnable _
  | irq =>
    simp only [writeReg, writeIrq]
    split
    · exact .acknowledge
    · exact .nothing
  | mrTrials =>
    simp only [writeReg, writeMrTrials]
    split
    · exact .nothing
    · next hn => exact .trials _ hn
  | mrSeed => exact .seed v
  | opa => exact .operands v s.opb s.opc s.len
  | opb => exact .operands s.opa v s.opc s.len
  | opc => exact .operands s.opa s.opb v s.len
  | len => exact .operands s.opa s.opb s.opc v
  | id | status | res0 | res1 | res2 | nttQ | nttN | nttPsi | nttPsiInv | nttNInv | fftN | fftWRe | fftWIm =>
    exact .nothing

/-- Serving a transaction is one of the listed effects, followed by recording the answer. -/
theorem serve_effect (x : Transaction) (s : State) : ∃ r u, serve x s = respond r u ∧ HostEffect s u := by
  cases x with
  | read addr strobe => exact ⟨_, s, rfl, .nothing⟩
  | write addr strobe v =>
    refine ⟨_, _, rfl, ?_⟩
    rcases writeEffect_cases s (.write addr strobe v) v with
      he | he | ⟨-, hbusy, -, he⟩ | ⟨-, r, -, -, he⟩ | ⟨-, -, b, k, -, hb, he⟩ <;> rw [he]
    · exact .nothing
    · exact .nothing
    · exact .overrun hbusy
    · exact writeReg_effect v s r
    · exact .memory b k v hb

end Sys2Proof.Machine
end

section
/-! The invariant of the register file and the memory (10_state.md R25 to R29, 20_memory.md R60,
60_exceptions.md R211). -/

namespace Sys2Proof.Machine

/-! ### The build -/

/-- No command's body changes the build. -/
theorem BodyEffect.config {s b : State} (h : BodyEffect s b) : b.config = s.config := by
  cases h <;> simp [buildNtt, buildFft]

theorem CommandEnd.config {s t : State} (h : CommandEnd s t) : t.config = s.config := by
  cases h with
  | ok b hb => exact hb.config
  | error e b hb => exact hb.config

theorem HostEffect.config {s u : State} (h : HostEffect s u) : u.config = s.config := by
  cases h <;> simp [writeMrSeed]

/-! ### MR_TRIALS and the generator's seed -/

/-- No command's body writes MR_TRIALS. -/
theorem BodyEffect.mrTrials {s b : State} (h : BodyEffect s b) : b.mrTrials = s.mrTrials := by
  cases h <;> simp [buildNtt, buildFft]

theorem CommandEnd.mrTrials {s t : State} (h : CommandEnd s t) : t.mrTrials = s.mrTrials := by
  cases h with
  | ok b hb => exact hb.mrTrials
  | error e b hb => exact hb.mrTrials

theorem reset_mrTrials_ne_zero : State.reset.mrTrials ≠ 0 := by decide

theorem HostEffect.mrTrials_ne_zero {s u : State} (h : HostEffect s u) (hs : s.mrTrials ≠ 0) : u.mrTrials ≠ 0 := by
  cases h with
  | trials n hn => exact hn
  | softReset => exact reset_mrTrials_ne_zero
  | nothing | overrun | accept | irqEnable | acknowledge | seed | operands => exact hs
  | memory b k v => rwa [bankWrite_mrTrials]

/-- A command's body draws from the generator but reseeds it never, and leaves MR_SEED alone. -/
theorem BodyEffect.seeds {s b : State} (h : BodyEffect s b) :
    b.gen.seed = s.gen.seed ∧ b.mrSeed = s.mrSeed := by
  cases h <;> simp [buildNtt, buildFft, *]

theorem BodyEffect.witnessSound {s b : State} (h : BodyEffect s b) (hs : WitnessSound s) : WitnessSound b := by
  obtain ⟨htrials, hseed⟩ := hs
  obtain ⟨hgen, hreg⟩ := h.seeds
  exact ⟨h.mrTrials ▸ htrials, by rw [hgen, hreg, hseed]⟩

theorem HostEffect.witnessSound {s u : State} (h : HostEffect s u) (hs : WitnessSound s) : WitnessSound u := by
  refine ⟨h.mrTrials_ne_zero hs.1, ?_⟩
  cases h with
  | seed | softReset => rfl
  | nothing | overrun | accept | irqEnable | acknowledge | trials | operands => exact hs.2
  | memory b k v => simpa using hs.2

/-! ### The memory -/

theorem memorySound_bankWrite {s : State} (b : Bank) (k : Nat) (v : Word) (h : MemorySound s) :
    MemorySound (bankWrite b k v s) :=
  ⟨wf_bankWrite b k v h.1, by simpa using mapped_bankWrite b k v h.2⟩

theorem memorySound_bankWriteAll {s : State} (b : Bank) (vs : List Word) (h : MemorySound s) :
    MemorySound (bankWriteAll b vs s) :=
  ⟨wf_bankWriteAll b vs h.1, by simpa using mapped_bankWriteAll b vs h.2⟩

theorem BodyEffect.memorySound {s b : State} (h : BodyEffect s b) (hs : MemorySound s) : MemorySound b := by
  cases h with
  | nothing | results | nttDestroyed | fftDestroyed => exact hs
  | output vs => exact memorySound_bankWriteAll .outBank vs hs
  | nttBuilt g =>
    exact memorySound_bankWriteAll .twnInv _ (memorySound_bankWriteAll (s := setGen g (releaseNtt s)) .twnFwd _ hs)
  | fftBuilt n =>
    exact memorySound_bankWriteAll .twfInv _ (memorySound_bankWriteAll (s := releaseFft s) .twfFwd _ hs)

theorem HostEffect.memorySound {s u : State} (h : HostEffect s u) (hs : MemorySound s) : MemorySound u := by
  cases h with
  | nothing | overrun | accept | softReset | irqEnable | acknowledge | trials | seed | operands => exact hs
  | memory b k v => exact memorySound_bankWrite b k v hs

/-! ### The flags -/

theorem legalCode_zero : legalCode 0 = true := by decide

/-- The number of an error kind is one of the listed values. -/
theorem legalCode_code (e : ErrorCode) : legalCode e.code = true := by cases e <;> decide

/-- A completion with a listed value leaves consistent flags, whatever they were. -/
theorem flagsSound_complete {e : BitVec 8} (he : legalCode e = true) (s : State) : FlagsSound (complete e s) :=
  ⟨rfl, he, nofun, nofun⟩

/-- The flags after a reset, soft or power-on: all 0, and so is CMD. -/
theorem flagsSound_of_reset {s : State} (hstatus : s.status = Status.cleared) (hcmd : s.cmd = 0) : FlagsSound s := by
  unfold FlagsSound
  rw [hstatus, hcmd]
  exact ⟨rfl, legalCode_zero, nofun, fun _ _ => ⟨rfl, rfl, rfl⟩⟩

theorem HostEffect.flagsSound {s u : State} (h : HostEffect s u) (hs : FlagsSound s) : FlagsSound u := by
  cases h with
  | nothing | irqEnable | acknowledge | trials | seed | operands => exact hs
  | overrun hbusy =>
    obtain ⟨herr, hcode, hflight, -⟩ := hs
    exact ⟨herr, hcode, hflight, fun hidle => absurd hbusy (by simpa using hidle)⟩
  | accept c => exact ⟨rfl, legalCode_zero, fun _ => ⟨rfl, rfl⟩, nofun⟩
  | softReset => exact flagsSound_of_reset rfl rfl
  | memory b k v => rw [bankWrite_eq]; exact hs

/-! ### One step -/

theorem CommandEnd.baseInv {s t : State} (h : CommandEnd s t) (hs : BaseInv s) : BaseInv t := by
  obtain ⟨-, hmem, hwit⟩ := hs
  cases h with
  | ok b hb => exact ⟨flagsSound_complete legalCode_zero b, hb.memorySound hmem, hb.witnessSound hwit⟩
  | error e b hb => exact ⟨flagsSound_complete (legalCode_code e) b, hb.memorySound hmem, hb.witnessSound hwit⟩

theorem HostEffect.baseInv {s u : State} (h : HostEffect s u) (hs : BaseInv s) : BaseInv u :=
  ⟨h.flagsSound hs.1, h.memorySound hs.2.1, h.witnessSound hs.2.2⟩

/-- The power-on reset needs no invariant before it: it sets every register, and it brings the memories up in canonical
form (70_reset_and_hazards.md R240, R242). -/
theorem baseInv_powerOnReset (c : List Host.Cell) (s : State) : BaseInv (powerOnReset c s) :=
  ⟨flagsSound_of_reset rfl rfl, powerOnMemory_sound s.config c, reset_mrTrials_ne_zero, rfl⟩

/-- An engine's turn, a host transaction or a power-on, from the state with the event taken off the schedule: what a
step is, without the schedule (20_memory.md R70). -/
inductive StepEffect (s : State) : State → Prop
  | idle : StepEffect s s
  | command {t : State} (hbusy : s.status.busy = true) (h : CommandEnd s t) : StepEffect s t
  | host (r : Response) {u : State} (h : HostEffect s u) : StepEffect s (respond r u)
  | powerOn (c : List Host.Cell) : StepEffect s (powerOnReset c s)

theorem step_effect {s t : State} (h : step s = .next t) : ∃ es, StepEffect { s with schedule := es } t := by
  have engine : ∀ u : State, runEngine u = .next t → StepEffect u t := fun u hu => by
    rcases runEngine_end hu with rfl | ⟨hbusy, hend⟩
    exacts [.idle, .command hbusy hend]
  rcases step_next h with ⟨-, h⟩ | ⟨rest, -, h⟩ | ⟨x, rest, -, rfl⟩ | ⟨c, rest, -, rfl⟩
  · exact ⟨s.schedule, engine s h⟩
  · exact ⟨rest, engine _ h⟩
  · obtain ⟨r, u, hserve, hu⟩ := serve_effect x { s with schedule := rest }
    exact ⟨rest, hserve ▸ .host r hu⟩
  · exact ⟨rest, .powerOn c⟩

theorem StepEffect.config {s t : State} (h : StepEffect s t) : t.config = s.config := by
  cases h with
  | idle => rfl
  | command _ h => exact h.config
  | host r h => exact h.config
  | powerOn c => rfl

theorem StepEffect.baseInv {s t : State} (h : StepEffect s t) (hs : BaseInv s) : BaseInv t := by
  cases h with
  | idle => exact hs
  | command _ h => exact h.baseInv hs
  | host r h => exact h.baseInv hs
  | powerOn c => exact baseInv_powerOnReset c s

/-- Settles O58: each of the effects a step can have keeps the invariant, by the parts of the state it writes. -/
theorem stepKeepsBaseInv : Obligations.StepKeepsBaseInv := by
  intro s t hs h
  obtain ⟨es, he⟩ := step_effect h
  exact ⟨he.baseInv hs, he.config⟩

end Sys2Proof.Machine
end

section
/-! Extended Euclid and the inverse (41_number_theory.md R128, R130): what an answer of the loop says. -/

namespace Sys2Proof.Machine

/-- A row of the Euclid loop holds the Bézout identities of its two remainders, for the operands a and b. -/
def EgcdRow.Bezout (a b : Int) (w : EgcdRow) : Prop :=
  (w.r0 : Int) = w.s0 * a + w.t0 * b ∧ (w.r1 : Int) = w.s1 * a + w.t1 * b

/-- The loop keeps the identities on every turn, so the row it ends with has them too, however many turns it made. -/
theorem egcdLoop_bezout (a b : Int) : ∀ (fuel : Nat) (w : EgcdRow), w.Bezout a b → (egcdLoop fuel w).Bezout a b
  | 0, _, h => h
  | fuel + 1, w, h => by
    simp only [egcdLoop]
    split
    · exact h
    · apply egcdLoop_bezout a b fuel
      obtain ⟨h0, h1⟩ := h
      refine ⟨h1, ?_⟩
      have hle : w.r0 / w.r1 * w.r1 ≤ w.r0 := Nat.div_mul_le_self _ _
      push_cast [Nat.cast_sub hle]
      rw [h0, h1]
      ring

/-- EgcdCore answers coefficients of its first result (41_number_theory.md R128). -/
theorem egcdCore_bezout (a b : Nat) : ((egcdCore a b).1 : Int) = (egcdCore a b).2.1 * a + (egcdCore a b).2.2 * b :=
  (egcdLoop_bezout a b (b + 1) ⟨a, b, 1, 0, 0, 1⟩ ⟨by simp, by simp⟩).1

/-- A value ModInvCore answers is the inverse, as a residue (41_number_theory.md R130). -/
theorem modInvCore_ok {a m v : Nat} (hm : 1 < m) (h : modInvCore a m = .ok v) : v < m ∧ a * v % m = 1 := by
  have hbez := egcdCore_bezout ((a : Int) % m).toNat m
  simp only [modInvCore] at h
  split at h
  · cases h
  · next hg =>
    obtain rfl := Except.ok.inj h
    rw [not_not.mp hg] at hbez
    generalize (egcdCore ((a : Int) % m).toNat m).2.1 = x at hbez ⊢
    have hres : (0 : Int) ≤ x % m := Int.emod_nonneg _ (by omega)
    have hlt : x % (m : Int) < m := Int.emod_lt_of_pos _ (by omega)
    refine ⟨by omega, ?_⟩
    rw [Int.toNat_of_nonneg (Int.emod_nonneg _ (by omega))] at hbez
    zify
    rw [Int.toNat_of_nonneg hres]
    calc (a : Int) * (x % m) % m = x * (a % m) % m := by simp [Int.mul_emod, mul_comm]
      _ = 1 % m := by rw [← Int.add_mul_emod_self_right, ← hbez]; rfl
      _ = 1 := Int.emod_eq_of_lt (by omega) (by omega)

/-! ### The parameters of an NTT engine (43_transform_engine.md R180) -/

theorem powCore_lt (b : Int) (e : Nat) {m : Nat} (hm : 0 < m) : powCore b e m < m := by
  rw [powCore_eq b e hm]
  exact Nat.mod_lt _ hm

/-- PowCore of a natural base is the power modulo m. -/
theorem powCore_natCast (b e : Nat) {m : Nat} (hm : 0 < m) : powCore b e m = b ^ e % m := by
  rw [powCore_eq b e hm, ← Int.natCast_mod, Int.toNat_natCast, ← Nat.pow_mod]

/-- A root that RootOfUnityCore answers is a residue, and its order divides m - 1 (41_number_theory.md R126). -/
theorem rootOfUnityCore_ok {m c : Nat} {k : Int} (hm : 0 < m) (h : rootOfUnityCore m k = .ok c) :
    c < m ∧ ((m : Int) - 1) % k = 0 := by
  simp only [rootOfUnityCore] at h
  split at h
  · cases h
  · next hk =>
    split at h
    · cases h
    · split at h
      · cases h
      · obtain rfl := Except.ok.inj h
        exact ⟨powCore_lt _ _ hm, by_contra fun hdvd => hk (.inr hdvd)⟩

/-- The values that pass every check of NTT.INIT are those of a sound engine: the order 2n divides q - 1, which for
n ≥ 2 puts q above 2, ψ^n = -1, and both inverses are inverses. -/
theorem nttParameters_ok {q n psi psiInv nInv : Nat} (hq : 2 ≤ q) (hn : 2 ≤ n)
    (h : nttParameters q n = .ok (psi, psiInv, nInv)) :
    2 < q ∧ (q - 1) % (2 * n) = 0 ∧ psi < q ∧ psiInv < q ∧ nInv < q ∧
      psi ^ n % q = q - 1 ∧ psi * psiInv % q = 1 ∧ n * nInv % q = 1 := by
  simp only [nttParameters] at h
  split at h
  · cases h
  · next root hroot =>
    split at h
    · cases h
    · next hpow =>
      split at h
      · cases h
      · next inv hinv =>
        split at h
        · cases h
        · next dinv hdinv =>
          obtain ⟨rfl, rfl, rfl⟩ : root = psi ∧ inv = psiInv ∧ dinv = nInv := by simpa using h
          obtain ⟨hlt, hdvd⟩ := rootOfUnityCore_ok (by omega) hroot
          obtain ⟨hinvlt, hinvmul⟩ := modInvCore_ok (by omega) hinv
          obtain ⟨hdinvlt, hdinvmul⟩ := modInvCore_ok (by omega) hdinv
          rw [not_not, powCore_natCast _ _ (by omega)] at hpow
          have hdvd' : (q - 1) % (2 * n) = 0 := by
            zify [show 1 ≤ q by omega]
            exact hdvd
          have hle : 2 * n ≤ q - 1 := Nat.le_of_dvd (by omega) (Nat.dvd_of_mod_eq_zero hdvd')
          exact ⟨by omega, hdvd', hlt, hinvlt, hdinvlt, hpow, hinvmul, hdinvmul⟩

/-! ### The words of a table (10_state.md R41) -/

/-- A number below 2^64 is read back from its word (00_scope.md section 6). -/
theorem uint_natBits64 {x : Nat} (hx : x < 2 ^ 64) : uint (natBits64 x) = x := by
  rw [uint, natBits64, BitVec.toNat_ofNat, Nat.mod_eq_of_lt hx]

/-- Element i of a vector of complex values is words 2i and 2i + 1. -/
theorem pairWords_getElem : ∀ (xs : List Cplx) (i : Nat) (hi : i < xs.length),
    (pairWords xs)[2 * i]'(by rw [length_pairWords]; omega) = xs[i].re ∧
      (pairWords xs)[2 * i + 1]'(by rw [length_pairWords]; omega) = xs[i].im
  | _ :: _, 0, _ => ⟨rfl, rfl⟩
  | _ :: xs, i + 1, hi => pairWords_getElem xs i (Nat.lt_of_succ_lt_succ hi)

/-- A vector of complex values just written is read back, when it fits in the memory. -/
theorem loadPairs_bankWriteAll_same {s : State} {b : Bank} {xs : List Cplx}
    (hfit : 2 * xs.length ≤ bankWords s.config b) (hwf : s.mem.wf = true) :
    loadPairs b xs.length (bankWriteAll b (pairWords xs) s) = xs := by
  refine List.ext_getElem (by simp) fun i hi hi' => ?_
  have hword : ∀ j, (hj : j < (pairWords xs).length) →
      bankRead b j (bankWriteAll b (pairWords xs) s) = (pairWords xs)[j] := fun j hj =>
    bankRead_bankWriteAll_same hj (by rw [length_pairWords] at hj; omega) hwf
  obtain ⟨hre, him⟩ := pairWords_getElem xs i hi'
  simp only [loadPairs, List.getElem_map, List.getElem_range]
  rw [hword (2 * i) (by rw [length_pairWords]; omega), hword (2 * i + 1) (by rw [length_pairWords]; omega), hre, him]

/-- A vector written to one memory leaves the vectors read from another one alone. -/
theorem loadPairs_bankWriteAll_other {s : State} {b b' : Bank} (hb : b' ≠ b) (vs : List Word) (n : Nat) :
    loadPairs b' n (bankWriteAll b vs s) = loadPairs b' n s := by
  simp only [loadPairs, bankRead_bankWriteAll_other (.inl hb)]

end Sys2Proof.Machine
end

section
/-! The invariant of the two contexts (10_state.md R34, R35, R40): a new engine is sound, everything else leaves a
context and its tables alone or clears it. -/

namespace Sys2Proof.Machine

/-! ### Each context by itself -/

/-- The NTT context is sound, or not ready with its registers 0. -/
def NttInv (s : State) : Prop :=
  (s.status.nttReady = true → NttSound s) ∧ (s.status.nttReady = false → s.ntt = NttContext.cleared)

/-- The FFT context is sound, or not ready with its registers 0. -/
def FftInv (s : State) : Prop :=
  (s.status.fftReady = true → FftSound s) ∧ (s.status.fftReady = false → s.fft = FftContext.cleared)

theorem contextInv_iff (s : State) : ContextInv s ↔ NttInv s ∧ FftInv s :=
  (and_assoc (c := FftInv s)).symm

theorem nttInv_of_cleared {s : State} (hready : s.status.nttReady = false) (hregs : s.ntt = NttContext.cleared) :
    NttInv s :=
  ⟨fun h => absurd (hready.symm.trans h) Bool.false_ne_true, fun _ => hregs⟩

theorem fftInv_of_cleared {s : State} (hready : s.status.fftReady = false) (hregs : s.fft = FftContext.cleared) :
    FftInv s :=
  ⟨fun h => absurd (hready.symm.trans h) Bool.false_ne_true, fun _ => hregs⟩

/-! ### What leaves a context alone -/

/-- The words of the listed memories, and how many the build has, are the same in both states. -/
def BanksKept (bs : List Bank) (s t : State) : Prop :=
  t.config = s.config ∧ ∀ b ∈ bs, ∀ k, bankRead b k t = bankRead b k s

theorem BanksKept.trans {bs : List Bank} {s t u : State} (hst : BanksKept bs s t) (htu : BanksKept bs t u) :
    BanksKept bs s u :=
  ⟨htu.1.trans hst.1, fun b hb k => (htu.2 b hb k).trans (hst.2 b hb k)⟩

/-- A change of any other field keeps the words of every memory. -/
theorem banksKept_of_mem_eq {bs : List Bank} {s t : State} (hconfig : t.config = s.config) (hmem : t.mem = s.mem) :
    BanksKept bs s t :=
  ⟨hconfig, fun _ _ _ => by simp only [bankRead, hconfig, hmem]⟩

theorem banksKept_bankWrite {bs : List Bank} {b : Bank} (hb : b ∉ bs) (k : Nat) (v : Word) (s : State) :
    BanksKept bs s (bankWrite b k v s) :=
  ⟨bankWrite_config b k v s, fun _ hb' _ => bankRead_bankWrite_other v (.inl fun e => hb (e ▸ hb'))⟩

theorem banksKept_bankWriteAll {bs : List Bank} {b : Bank} (hb : b ∉ bs) (vs : List Word) (s : State) :
    BanksKept bs s (bankWriteAll b vs s) :=
  ⟨bankWriteAll_config b vs s, fun _ hb' _ => bankRead_bankWriteAll_other (.inl fun e => hb (e ▸ hb'))⟩

/-- The two tables of the NTT context (10_state.md R41). -/
abbrev nttTables : List Bank := [.twnFwd, .twnInv]

/-- The two tables of the FFT context (10_state.md R41). -/
abbrev fftTables : List Bank := [.twfFwd, .twfInv]

theorem NttInv.keep {s t : State} (h : NttInv s) (hregs : NttKept s t) (htables : BanksKept nttTables s t) :
    NttInv t := by
  obtain ⟨hntt, hready⟩ := hregs
  obtain ⟨hconfig, hwords⟩ := htables
  have hfwd := hwords .twnFwd (by decide)
  have hinv := hwords .twnInv (by decide)
  simpa only [NttInv, NttSound, hntt, hready, hconfig, hfwd, hinv] using h

theorem FftInv.keep {s t : State} (h : FftInv s) (hregs : FftKept s t) (htables : BanksKept fftTables s t) :
    FftInv t := by
  obtain ⟨hfft, hready⟩ := hregs
  obtain ⟨hconfig, hwords⟩ := htables
  have hfwd := hwords .twfFwd (by decide)
  have hinv := hwords .twfInv (by decide)
  simpa only [FftInv, FftSound, loadPairs, hfft, hready, hconfig, hfwd, hinv] using h

/-! ### A new engine is sound -/

/-- Every memory holds a word for each element of the longest vector (10_state.md R41). -/
theorem nMax_le_bankWords (c : Config) (b : Bank) : c.nMax ≤ bankWords c b := by
  cases b <;> simp only [bankWords] <;> omega

/-- Entry k of a table of powers that has just been written (43_transform_engine.md R179). -/
theorem uint_bankRead_twiddles {s : State} {b : Bank} {q n k : Nat} (hq : 0 < q) (hq64 : q < 2 ^ 64) (psi : Nat)
    (hk : k < n) (hmax : n ≤ s.config.nMax) (hwf : s.mem.wf = true) :
    uint (bankRead b k (bankWriteAll b (uintWords (nttTwiddles q psi n)) s)) = psi ^ k % q := by
  have hfit := nMax_le_bankWords s.config b
  rw [bankRead_bankWriteAll_same (by simpa using hk) (by omega) hwf]
  simp only [uintWords, List.getElem_map, nttTwiddles_getElem hq]
  exact uint_natBits64 ((Nat.mod_lt _ hq).trans hq64)

/-- NTT.INIT installs a sound engine when its parameters pass the checks (43_transform_engine.md R180). -/
theorem nttSound_buildNtt {s : State} {q n psi psiInv nInv : Nat} (hwf : s.mem.wf = true) (hq : 2 ≤ q)
    (hq63 : q < 2 ^ 63) (hn : isPow2 n = true) (hmax : n ≤ s.config.nMax)
    (hparams : nttParameters q n = .ok (psi, psiInv, nInv)) : NttSound (buildNtt q n psi psiInv nInv s) := by
  have hn2 : 2 ≤ n := by simp only [isPow2, Bool.and_eq_true, decide_eq_true_eq] at hn; exact hn.1
  have hnbound := hmax.trans (nMax_le s.config)
  obtain ⟨hq2, hdvd, hpsi, hpsiInv, hnInv, hpow, hinv, hninv⟩ := nttParameters_ok hq hn2 hparams
  have hfwd : ∀ k < n, uint (bankRead .twnFwd k (buildNtt q n psi psiInv nInv s)) = psi ^ k % q := fun k hk => by
    change uint (bankRead .twnFwd k (bankWriteAll .twnInv _ (bankWriteAll .twnFwd _ s))) = _
    rw [bankRead_bankWriteAll_other (.inl (by decide)),
      uint_bankRead_twiddles (by omega) (by omega) psi hk hmax hwf]
  have hbwd : ∀ k < n, uint (bankRead .twnInv k (buildNtt q n psi psiInv nInv s)) = psiInv ^ k % q := fun k hk => by
    change uint (bankRead .twnInv k (bankWriteAll .twnInv _ (bankWriteAll .twnFwd _ s))) = _
    rw [uint_bankRead_twiddles (by omega) (by omega) psiInv hk (by simpa using hmax) (wf_bankWriteAll _ _ hwf)]
  have hregs : (buildNtt q n psi psiInv nInv s).ntt =
      ⟨natBits64 q, natBits64 n, natBits64 psi, natBits64 psiInv, natBits64 nInv⟩ := rfl
  have hconfig : (buildNtt q n psi psiInv nInv s).config = s.config := by simp [buildNtt]
  simp only [NttSound, hregs, hconfig]
  rw [uint_natBits64 (by omega), uint_natBits64 (by omega), uint_natBits64 (by omega), uint_natBits64 (by omega),
    uint_natBits64 (by omega)]
  exact ⟨hn, hmax, hq2, hq63, hdvd, hpsi, hpsiInv, hnInv, hpow, hinv, hninv, hfwd, hbwd⟩

/-- The table of a root that has just been written is read back (43_transform_engine.md R181). -/
theorem loadPairs_twiddles {s : State} {b : Bank} {n : Nat} (w : Cplx) (hwf : s.mem.wf = true)
    (hfit : 2 * n ≤ bankWords s.config b) :
    loadPairs b n (bankWriteAll b (pairWords (fftTwiddles w n)) s) = fftTwiddles w n := by
  have hlength := length_fftTwiddles w n
  have hload := loadPairs_bankWriteAll_same (b := b) (xs := fftTwiddles w n) (by rwa [hlength]) hwf
  rwa [hlength] at hload

/-- FFT.INIT installs a sound engine (43_transform_engine.md R185). -/
theorem fftSound_buildFft {s : State} {n : Nat} (hwf : s.mem.wf = true) (hn : isPow2 n = true)
    (hmax : n ≤ s.config.nMax) : FftSound (buildFft n s) := by
  have hnbound := hmax.trans (nMax_le s.config)
  have hfwd : loadPairs .twfFwd n (buildFft n s) = fftTwiddles (romFwd (Nat.log2 n)) n := by
    change loadPairs .twfFwd n (bankWriteAll .twfInv _ (bankWriteAll .twfFwd _ s)) = _
    rw [loadPairs_bankWriteAll_other (by decide), loadPairs_twiddles (b := .twfFwd) _ hwf (Nat.mul_le_mul_left 2 hmax)]
  have hbwd : loadPairs .twfInv n (buildFft n s) = fftTwiddles (romInv (Nat.log2 n)) n := by
    change loadPairs .twfInv n (bankWriteAll .twfInv _ (bankWriteAll .twfFwd _ s)) = _
    have hmax' : n ≤ (bankWriteAll .twfFwd (pairWords (fftTwiddles (romFwd (Nat.log2 n)) n)) s).config.nMax := by
      rwa [bankWriteAll_config]
    rw [loadPairs_twiddles (b := .twfInv) _ (wf_bankWriteAll _ _ hwf) (Nat.mul_le_mul_left 2 hmax')]
  have hregs : (buildFft n s).fft = ⟨natBits64 n, (romFwd (Nat.log2 n)).re, (romFwd (Nat.log2 n)).im⟩ := rfl
  have hconfig : (buildFft n s).config = s.config := by simp [buildFft]
  simp only [FftSound, hregs, hconfig]
  rw [uint_natBits64 (by omega)]
  exact ⟨hn, hmax, rfl, rfl, hfwd, hbwd⟩

/-! ### One step -/

theorem BodyEffect.nttInv {s b : State} (h : BodyEffect s b) (hwf : s.mem.wf = true) (hs : NttInv s) : NttInv b := by
  cases h with
  | nothing => exact hs
  | results | fftDestroyed => exact hs.keep ⟨rfl, rfl⟩ (banksKept_of_mem_eq rfl rfl)
  | output vs => exact hs.keep (by simp [NttKept]) (banksKept_bankWriteAll (by decide) vs s)
  | nttDestroyed => exact nttInv_of_cleared rfl rfl
  | nttBuilt g hg q n psi psiInv nInv hq hq63 hn hmax hparams =>
    exact ⟨fun _ => nttSound_buildNtt hwf hq hq63 hn hmax hparams, nofun⟩
  | fftBuilt n =>
    have hinv := banksKept_bankWriteAll (bs := nttTables) (b := .twfInv) (by decide)
    have hfwd := banksKept_bankWriteAll (bs := nttTables) (b := .twfFwd) (by decide)
    exact hs.keep (by simp [NttKept, buildFft]) ((hfwd _ (releaseFft s)).trans (hinv _ _))

theorem BodyEffect.fftInv {s b : State} (h : BodyEffect s b) (hwf : s.mem.wf = true) (hs : FftInv s) : FftInv b := by
  cases h with
  | nothing => exact hs
  | results | nttDestroyed => exact hs.keep ⟨rfl, rfl⟩ (banksKept_of_mem_eq rfl rfl)
  | output vs => exact hs.keep (by simp [FftKept]) (banksKept_bankWriteAll (by decide) vs s)
  | nttBuilt g hg q n psi psiInv nInv =>
    have hinv := banksKept_bankWriteAll (bs := fftTables) (b := .twnInv) (by decide)
    have hfwd := banksKept_bankWriteAll (bs := fftTables) (b := .twnFwd) (by decide)
    exact hs.keep (by simp [FftKept, buildNtt]) ((hfwd _ (setGen g (releaseNtt s))).trans (hinv _ _))
  | fftDestroyed => exact fftInv_of_cleared rfl rfl
  | fftBuilt n hn hmax => exact ⟨fun _ => fftSound_buildFft hwf hn hmax, nofun⟩

theorem BodyEffect.contextInv {s b : State} (h : BodyEffect s b) (hwf : s.mem.wf = true) (hs : ContextInv s) :
    ContextInv b := by
  rw [contextInv_iff] at hs ⊢
  exact ⟨h.nttInv hwf hs.1, h.fftInv hwf hs.2⟩

/-- The completion flags and the recorded answers are no part of a context. -/
theorem contextInv_congr {s t : State} (h : ContextInv s) (hntt : NttKept s t) (hfft : FftKept s t)
    (hbanks : ∀ bs, bs = nttTables ∨ bs = fftTables → BanksKept bs s t) : ContextInv t := by
  rw [contextInv_iff] at h ⊢
  exact ⟨h.1.keep hntt (hbanks _ (.inl rfl)), h.2.keep hfft (hbanks _ (.inr rfl))⟩

theorem CommandEnd.contextInv {s t : State} (h : CommandEnd s t) (hwf : s.mem.wf = true) (hs : ContextInv s) :
    ContextInv t := by
  have complete_keeps : ∀ (e : BitVec 8) {b : State}, BodyEffect s b → ContextInv (complete e b) := fun e b hb =>
    contextInv_congr (hb.contextInv hwf hs) ⟨rfl, rfl⟩ ⟨rfl, rfl⟩ fun _ _ => banksKept_of_mem_eq rfl rfl
  cases h with
  | ok b hb => exact complete_keeps 0 hb
  | error e b hb => exact complete_keeps e.code hb

/-- Registers and flags as after a reset: both contexts are not ready and cleared. -/
theorem contextInv_of_reset {s : State} (hstatus : s.status = Status.cleared) (hntt : s.ntt = NttContext.cleared)
    (hfft : s.fft = FftContext.cleared) : ContextInv s :=
  (contextInv_iff s).mpr ⟨nttInv_of_cleared (by rw [hstatus]; rfl) hntt, fftInv_of_cleared (by rw [hstatus]; rfl) hfft⟩

/-- The host reaches the tables in no way (20_memory.md R67): it writes IN and OUT only. -/
theorem HostEffect.contextInv {s u : State} (h : HostEffect s u) (hs : ContextInv s) : ContextInv u := by
  cases h with
  | nothing | irqEnable | acknowledge | trials | seed | operands | overrun | accept =>
    exact contextInv_congr hs ⟨rfl, rfl⟩ ⟨rfl, rfl⟩ fun _ _ => banksKept_of_mem_eq rfl rfl
  | softReset => exact contextInv_of_reset rfl rfl rfl
  | memory b k v hb =>
    refine contextInv_congr hs (by simp [NttKept]) (by simp [FftKept]) fun bs hbs =>
      banksKept_bankWrite (fun hmem => ?_) k v s
    rcases hbs with rfl | rfl <;> cases b <;> simp [hostWritable] at hb hmem

theorem StepEffect.contextInv {s t : State} (h : StepEffect s t) (hwf : s.mem.wf = true) (hs : ContextInv s) :
    ContextInv t := by
  cases h with
  | idle => exact hs
  | command _ h => exact h.contextInv hwf hs
  | host r h =>
    exact contextInv_congr (h.contextInv hs) ⟨rfl, rfl⟩ ⟨rfl, rfl⟩ fun _ _ => banksKept_of_mem_eq rfl rfl
  | powerOn c => exact contextInv_of_reset rfl rfl rfl

/-- Settles O59: an INIT that succeeds builds a sound engine, and every other effect of a step clears a context or
leaves its registers and tables alone. -/
theorem stepKeepsContextInv : Obligations.StepKeepsContextInv := by
  intro s t hbase hs h
  obtain ⟨-, ⟨hwf, -⟩, -⟩ := hbase
  obtain ⟨es, he⟩ := step_effect h
  exact he.contextInv hwf hs

end Sys2Proof.Machine
end

section
/-! The register page (10_state.md R20 to R35): the answer to an access at a register's offset, and the registers
MR_TRIALS, MR_SEED, ID, STATUS, CTRL and IRQ. -/

namespace Sys2Proof.Machine

/-! ### An access at a register's offset -/

/-- The address of a register leads to that register in every build (10_state.md R20). -/
theorem locate_regAddr (c : Config) (r : Reg) : locate c (regAddr r).toNat = .register r := by cases r <;> rfl

theorem legal_read_regAddr (r : Reg) : (Transaction.read (regAddr r) 0xFF).legal = true := by cases r <;> rfl

theorem legal_write_regAddr (r : Reg) (v : Word) : (Transaction.write (regAddr r) 0xFF v).legal = true :=
  legal_read_regAddr r

/-- A Read of a register gives its word, or an ERROR when it is blocked (20_memory.md R66). -/
theorem serve_read_regAddr (s : State) (r : Reg) : serve (.read (regAddr r) 0xFF) s =
    respond (if s.status.busy && regBlocked r then .read .error 0 else .read .okay (readReg s r)) s := by
  simp only [serve, readResponse, legal_read_regAddr, Transaction.addr, locate_regAddr, Bool.true_eq_false, if_false]

/-- A Write to a register while idle has the register's effect. -/
theorem serve_write_regAddr {s : State} (h : s.status.busy = false) (r : Reg) (v : Word) :
    serve (.write (regAddr r) 0xFF v) s = respond (.write .okay) (writeReg v s r) := by
  have heffect : writeEffect s (.write (regAddr r) 0xFF v) v = (writeReg v s r, .write .okay) := by
    simp only [writeEffect, legal_write_regAddr, Transaction.addr, locate_regAddr, h]
    cases r <;> rfl
  simp only [serve, heffect]

/-- A Write to a blocked register while BUSY is an ERROR and has no effect (20_memory.md R66). -/
theorem serve_write_regAddr_blocked {s : State} (h : s.status.busy = true) {r : Reg} (hr : regBlocked r = true)
    (v : Word) : serve (.write (regAddr r) 0xFF v) s = respond (.write .error) s := by
  have heffect : writeEffect s (.write (regAddr r) 0xFF v) v = (s, .write .error) := by
    simp only [writeEffect, legal_write_regAddr, Transaction.addr, locate_regAddr, h]
    cases r <;> simp [regBlocked] at hr ⊢
  simp only [serve, heffect]

/-- A register outside the writable ones ignores a Write (10_state.md R24 to R35). -/
theorem writeReg_readOnly {r : Reg} (hr : r ∉ [Reg.cmd, .ctrl, .irq, .mrTrials, .mrSeed, .opa, .opb, .opc, .len])
    (v : Word) (s : State) : writeReg v s r = s := by
  cases r <;> simp [writeReg] at hr ⊢

/-- Settles O49: while idle no register is blocked, so each access is the register's own read or write. -/
theorem registerReadsAndWrites : Obligations.RegisterReadsAndWrites := by
  refine ⟨by decide, fun s v hidle => ?_⟩
  have hwrite := fun r => serve_write_regAddr hidle r v
  refine ⟨?_, hwrite .opa, hwrite .opb, hwrite .opc, hwrite .len, fun r hr => ?_⟩
  · change ∀ p ∈ allRegs.map (fun r => (regAddr r, readReg s r)), _
    rw [List.forall_mem_map]
    intro r _
    simp only [serve_read_regAddr, hidle, Bool.false_and, Bool.false_eq_true, if_false]
    rfl
  · rw [hwrite r, writeReg_readOnly hr]
    rfl

/-! ### MR_TRIALS -/

/-- Bits [31:0] of a word, as a number. -/
theorem setWidth_32_eq_zero_iff (v : Word) : v.setWidth 32 = 0 ↔ v.toNat % 2 ^ 32 = 0 := by
  rw [← BitVec.toNat_inj, BitVec.toNat_setWidth]
  rfl

/-- The word MR_TRIALS reads as is the number of trials, the reserved bits 0 (10_state.md R28). -/
theorem uint_readReg_mrTrials (s : State) : uint (readReg s .mrTrials) = s.mrTrials.toNat := by
  have := s.mrTrials.isLt
  rw [uint, readReg, BitVec.toNat_setWidth, Nat.mod_eq_of_lt (by omega)]

theorem readReg_mrTrials_ne_zero_iff (s : State) : readReg s .mrTrials ≠ 0 ↔ s.mrTrials ≠ 0 := by
  rw [ne_eq, ne_eq, ← BitVec.toNat_inj, ← BitVec.toNat_inj, ← uint_readReg_mrTrials]
  rfl

/-- No step makes MR_TRIALS 0: a command does not write it, a write of 0 is ignored, and a reset sets 1000. -/
theorem StepEffect.mrTrials_ne_zero {s t : State} (h : StepEffect s t) (hs : s.mrTrials ≠ 0) : t.mrTrials ≠ 0 := by
  cases h with
  | idle => exact hs
  | command _ h => rwa [h.mrTrials]
  | host r h => exact h.mrTrials_ne_zero hs
  | powerOn c => exact reset_mrTrials_ne_zero

/-- Settles O50: from the write rule of the register, and from what each effect of a step does to it. -/
theorem mrTrialsRegister : Obligations.MrTrialsRegister := by
  refine ⟨rfl, fun s v hidle => ⟨fun hzero => ?_, fun hpos => ?_⟩, fun s v hbusy => ⟨?_, ?_⟩, fun s t hs h => ?_⟩
  · rw [serve_write_regAddr hidle, writeReg, writeMrTrials, if_pos ((setWidth_32_eq_zero_iff v).mpr hzero)]
    rfl
  · rw [serve_write_regAddr hidle, writeReg, writeMrTrials, if_neg (mt (setWidth_32_eq_zero_iff v).mp hpos)]
    exact ⟨_, rfl, by rw [uint_readReg_mrTrials]; exact BitVec.toNat_setWidth .., rfl⟩
  · rw [serve_read_regAddr, hbusy]
    rfl
  · exact serve_write_regAddr_blocked hbusy rfl v
  · rw [readReg_mrTrials_ne_zero_iff] at hs ⊢
    obtain ⟨es, he⟩ := step_effect h
    exact he.mrTrials_ne_zero hs

end Sys2Proof.Machine
end

section
/-! The fields of the ID, STATUS, CTRL and IRQ words (10_state.md R24, R26, R27, R30), and the agreement of equally
seeded runs (R29). -/

namespace Sys2Proof.Machine

/-! ### The fields of a word -/

theorem logNMax_lt (c : Config) : c.logNMax < 2 ^ 8 := by
  have := c.logNMaxPred.isLt
  unfold Config.logNMax
  omega

/-- The fields of ID, from the highest (10_state.md R24). -/
theorem idWord_fields (c : Config) :
    (idWord c).extractLsb' 32 32 = 0x4E545442 ∧ (idWord c).extractLsb' 24 8 = 0x01 ∧
      (idWord c).extractLsb' 16 8 = 0x00 ∧ (idWord c).extractLsb' 8 8 = BitVec.ofNat 8 c.logNMax ∧
      (idWord c).extractLsb' 0 8 = 0x03 := by
  unfold idWord
  refine ⟨?_, ?_, ?_, ?_, BitVec.extractLsb'_append_eq_right⟩
  all_goals rw [BitVec.extractLsb'_append_eq_of_le (by decide)]
  · iterate 3 rw [BitVec.extractLsb'_append_eq_of_le (by decide)]
    rfl
  · iterate 2 rw [BitVec.extractLsb'_append_eq_of_le (by decide)]
    exact BitVec.extractLsb'_append_eq_right
  · rw [BitVec.extractLsb'_append_eq_of_le (by decide)]
    exact BitVec.extractLsb'_append_eq_right
  · exact BitVec.extractLsb'_append_eq_right

/-- A flag below a word is bit 0. -/
theorem getLsbD_zero_append_flag {n : Nat} (x : BitVec n) (b : Bool) : (x ++ BitVec.ofBool b).getLsbD 0 = b := by
  rw [BitVec.getLsbD_append]
  simp

/-- The bits above the flag are those of the word. -/
theorem getLsbD_succ_append_flag {n : Nat} (x : BitVec n) (b : Bool) (i : Nat) :
    (x ++ BitVec.ofBool b).getLsbD (i + 1) = x.getLsbD i := by
  rw [BitVec.getLsbD_append, if_neg (by omega), Nat.add_sub_cancel]

/-- The bits of STATUS, BUSY first (10_state.md R26). -/
theorem statusWord_bits (f : Status) :
    f.word.getLsbD 0 = f.busy ∧ f.word.getLsbD 1 = f.done ∧ f.word.getLsbD 2 = f.err ∧
      f.word.getLsbD 3 = f.overrun ∧ f.word.getLsbD 4 = f.nttReady ∧ f.word.getLsbD 5 = f.fftReady := by
  unfold Status.word
  refine ⟨getLsbD_zero_append_flag _ _, ?_, ?_, ?_, ?_, ?_⟩
  all_goals rw [getLsbD_succ_append_flag]
  · exact getLsbD_zero_append_flag _ _
  all_goals rw [getLsbD_succ_append_flag]
  · exact getLsbD_zero_append_flag _ _
  all_goals rw [getLsbD_succ_append_flag]
  · exact getLsbD_zero_append_flag _ _
  all_goals rw [getLsbD_succ_append_flag]
  · exact getLsbD_zero_append_flag _ _
  · rw [getLsbD_succ_append_flag]
    exact getLsbD_zero_append_flag _ _

/-- The fields of STATUS above its bits: the reserved ones are 0 (10_state.md R26). -/
theorem statusWord_fields (f : Status) :
    f.word.extractLsb' 6 2 = 0 ∧ f.word.extractLsb' 8 8 = f.errcode ∧ f.word.extractLsb' 16 48 = 0 := by
  unfold Status.word
  refine ⟨?_, ?_, ?_⟩
  all_goals iterate 6 rw [BitVec.extractLsb'_append_eq_of_le (by decide)]
  · exact BitVec.extractLsb'_append_eq_right
  · rw [BitVec.extractLsb'_append_eq_of_le (by decide)]
    exact BitVec.extractLsb'_append_eq_right
  · rw [BitVec.extractLsb'_append_eq_of_le (by decide)]
    exact BitVec.extractLsb'_append_eq_left

/-- A word of one flag below 63 reserved bits (10_state.md R27, R30). -/
theorem flagWord_fields (b : Bool) :
    ((0#63 : BitVec 63) ++ BitVec.ofBool b).getLsbD 0 = b ∧
      ((0#63 : BitVec 63) ++ BitVec.ofBool b).extractLsb' 1 63 = 0 :=
  ⟨getLsbD_zero_append_flag _ _, BitVec.extractLsb'_append_eq_left⟩

/-- Settles O52: the fields of the four words are the pieces they are put together from. -/
theorem idAndStatusWords : Obligations.IdAndStatusWords := by
  refine ⟨by decide, fun s => ?_⟩
  obtain ⟨hmagic, hmajor, hminor, hlog, hfeatures⟩ := idWord_fields s.config
  obtain ⟨hbusy, hdone, herr, hoverrun, hntt, hfft⟩ := statusWord_bits s.status
  obtain ⟨hlow, hcode, hhigh⟩ := statusWord_fields s.status
  obtain ⟨hen, hctrl⟩ := flagWord_fields s.irqEn
  obtain ⟨hpend, hirq⟩ := flagWord_fields s.irqPend
  have hlogNat : ((idWord s.config).extractLsb' 8 8).toNat = s.config.logNMax := by
    rw [hlog, BitVec.toNat_ofNat, Nat.mod_eq_of_lt (logNMax_lt s.config)]
  exact ⟨hmagic, hmajor, hminor, hlogNat, hfeatures, hbusy, hdone, herr, hoverrun, hntt, hfft, hlow, hcode, hhigh,
    hen, hctrl, hpend, hirq⟩

/-! ### Equally seeded runs -/

/-- The parts of the state that a command that draws reads are equal. -/
structure DrawInputsAgree (s s' : State) : Prop where
  config : s.config = s'.config
  opa : s.opa = s'.opa
  opb : s.opb = s'.opb
  mrTrials : s.mrTrials = s'.mrTrials
  gen : s.gen = s'.gen

/-- Two ends of a utility command that report the same: generator, error code and results. -/
structure ResultsAgree (t t' : State) : Prop where
  gen : t.gen = t'.gen
  errcode : t.status.errcode = t'.status.errcode
  results : ResultsAre t t'.res0 t'.res1 t'.res2

/-- Two ends of NTT.INIT that report the same: generator, error code and the NTT registers. -/
structure NttRegistersAgree (t t' : State) : Prop where
  gen : t.gen = t'.gen
  errcode : t.status.errcode = t'.status.errcode
  ntt : t.ntt = t'.ntt

/-- Whenever both outcomes are next states, these are related. -/
def OutcomesRelated (P : State → State → Prop) (o o' : Host.Outcome State Fault Refusal) : Prop :=
  ∀ t t', o = .next t → o' = .next t' → P t t'

section
variable {P : State → State → Prop}

theorem outcomesRelated_succeed {s s' : State} (h : P (complete 0 s) (complete 0 s')) :
    OutcomesRelated P (succeed s) (succeed s') := fun t t' ht ht' => by
  rw [succeed_next] at ht ht'
  exact ht ▸ ht' ▸ h

theorem outcomesRelated_raise (e : ErrorCode) {s s' : State} (h : P (complete e.code s) (complete e.code s')) :
    OutcomesRelated P (raise e s) (raise e s') := fun t t' ht ht' => by
  rw [raise_next] at ht ht'
  exact ht ▸ ht' ▸ h

/-- The same check on both sides. -/
theorem outcomesRelated_ite {c : Prop} [Decidable c] {a b a' b' : Host.Outcome State Fault Refusal}
    (ha : c → OutcomesRelated P a a') (hb : ¬ c → OutcomesRelated P b b') :
    OutcomesRelated P (if c then a else b) (if c then a' else b') := by
  split
  · next hc => exact ha hc
  · next hc => exact hb hc

end

/-- The primality test reads MR_TRIALS and the generator only (41_number_theory.md R121). -/
theorem DrawInputsAgree.testPrime {s s' : State} (h : DrawInputsAgree s s') (x : Int) :
    testPrime x s = testPrime x s' := by
  simp only [Machine.testPrime, h.mrTrials, h.gen]

/-- Both sides write the same results, or fail with them cleared. -/
theorem outcomesRelated_finishNat (r : Except ErrorCode Nat) (g : WitnessGen) (s s' : State) :
    OutcomesRelated ResultsAgree (finishNat r (setGen g (clearResults s)))
      (finishNat r (setGen g (clearResults s'))) := by
  cases r with
  | ok v => exact outcomesRelated_succeed ⟨rfl, rfl, rfl, rfl, rfl⟩
  | error e => exact outcomesRelated_raise e ⟨rfl, rfl, rfl, rfl, rfl⟩

section
variable {s s' : State}

theorem execIsprime_agree (h : DrawInputsAgree s s') :
    OutcomesRelated ResultsAgree (execIsprime s) (execIsprime s') := by
  simp only [execIsprime, h.opa, h.testPrime]
  exact outcomesRelated_succeed ⟨rfl, rfl, rfl, rfl, rfl⟩

theorem execPrimroot_agree (h : DrawInputsAgree s s') :
    OutcomesRelated ResultsAgree (execPrimroot s) (execPrimroot s') := by
  simp only [execPrimroot, h.opa, h.testPrime]
  exact outcomesRelated_ite (fun _ => outcomesRelated_raise .notPrime ⟨rfl, rfl, rfl, rfl, rfl⟩)
    fun _ => outcomesRelated_finishNat _ _ s s'

theorem execRootunity_agree (h : DrawInputsAgree s s') :
    OutcomesRelated ResultsAgree (execRootunity s) (execRootunity s') := by
  simp only [execRootunity, h.opa, h.opb, h.testPrime]
  exact outcomesRelated_ite (fun _ => outcomesRelated_raise .notPrime ⟨rfl, rfl, rfl, rfl, rfl⟩)
    fun _ => outcomesRelated_finishNat _ _ s s'

theorem execNttInit_agree (h : DrawInputsAgree s s') :
    OutcomesRelated NttRegistersAgree (execNttInit s) (execNttInit s') := by
  simp only [execNttInit, h.config, h.opa, h.opb, h.testPrime]
  refine outcomesRelated_ite (fun _ => outcomesRelated_raise .invalidDegree ⟨h.gen, rfl, rfl⟩) fun _ => ?_
  refine outcomesRelated_ite (fun _ => outcomesRelated_raise .capacity ⟨h.gen, rfl, rfl⟩) fun _ => ?_
  refine outcomesRelated_ite (fun _ => outcomesRelated_raise .notPrime ⟨rfl, rfl, rfl⟩) fun _ => ?_
  split
  · next e _ => exact outcomesRelated_raise e ⟨rfl, rfl, rfl⟩
  · exact outcomesRelated_succeed ⟨by simp [buildNtt], by simp, rfl⟩

end

/-- After the same write to MR_SEED, two idle states with equal operands, MR_TRIALS and build agree in all a command
that draws reads. -/
theorem drawInputsAgree_of_seeded {s s' : State} (v : Word) (hidle : s.status.busy = false)
    (hidle' : s'.status.busy = false) (hconfig : s.config = s'.config) (hopa : s.opa = s'.opa) (hopb : s.opb = s'.opb)
    (htrials : s.mrTrials = s'.mrTrials) :
    DrawInputsAgree (serve (.write (regAddr .mrSeed) 0xFF v) s) (serve (.write (regAddr .mrSeed) 0xFF v) s') := by
  rw [serve_write_regAddr hidle, serve_write_regAddr hidle']
  exact ⟨hconfig, hopa, hopb, htrials, rfl⟩

/-- Settles O51: the write rule of the register, and for each command that draws, that its outcome is made from the
inputs on which the two runs agree. -/
theorem mrSeedReseeds : Obligations.MrSeedReseeds := by
  refine ⟨rfl, rfl, fun s v hidle => ⟨?_, ?_⟩, fun s v hbusy => ⟨?_, ?_⟩, ?_⟩
  · exact serve_write_regAddr hidle .mrSeed v
  · rw [serve_read_regAddr, hidle]
    rfl
  · rw [serve_read_regAddr, hbusy]
    rfl
  · exact serve_write_regAddr_blocked hbusy rfl v
  · intro i s s' t t' v hdraws hidle hidle' hconfig hopa hopb htrials ht ht'
    have hinputs := drawInputsAgree_of_seeded v hidle hidle' hconfig hopa hopb htrials
    have of_results : i ≠ .nttInit → ResultsAgree t t' → t.gen = t'.gen ∧ t.status.errcode = t'.status.errcode ∧
        (isUtility i = true → ResultsAre t t'.res0 t'.res1 t'.res2) ∧ (i = .nttInit → t.ntt = t'.ntt) :=
      fun hi h => ⟨h.gen, h.errcode, fun _ => h.results, fun e => absurd e hi⟩
    cases i with
    | nttInit =>
      have h := execNttInit_agree hinputs t t' ht ht'
      exact ⟨h.gen, h.errcode, nofun, fun _ => h.ntt⟩
    | isprime => exact of_results nofun (execIsprime_agree hinputs t t' ht ht')
    | primroot => exact of_results nofun (execPrimroot_agree hinputs t t' ht ht')
    | rootunity => exact of_results nofun (execRootunity_agree hinputs t t' ht ht')
    | nop | fftInit | nttFwd | fftFwd | nttInv | fftInv | nttRelease | fftRelease | bitrevW | bitrevC | egcd | modinv
    | pow | ispow2 | bitrevn => cases hdraws

end Sys2Proof.Machine
end

section
/-! The address map and the accesses it serves (20_memory.md R60 to R68): where every address leads, what an access
there answers, and what a host transaction can do while BUSY. -/

namespace Sys2Proof.Machine

/-! ### The address map -/

theorem mem_allBanks (b : Bank) : b ∈ allBanks := by cases b <;> decide

/-- The windows lie above the register page, and end below the top of the address space (20_memory.md R60). -/
theorem bankBase_ge (b : Bank) : 0x100000 ≤ bankBase b := by cases b <;> decide

theorem window_end_le (c : Config) (b : Bank) : bankBase b + 8 * bankWords c b ≤ 0x600000 := by
  have := nMax_le c
  cases b <;> simp only [bankBase, bankWords] <;> omega

/-- The registers fill the page up to 0xB0 at most (10_state.md R20). -/
theorem regOffset_lt (r : Reg) : regOffset r < 0xB0 := by cases r <;> decide

theorem inWindow_unique {c : Config} {b b' : Bank} {a : Nat} (h : inWindow c b a = true)
    (h' : inWindow c b' a = true) : b' = b := by
  rw [inWindow_iff] at h h'
  by_contra hne
  have := windows_disjoint c hne
  omega

/-- An address in a window leads to the word it lies in. -/
theorem locate_of_inWindow {c : Config} {b : Bank} {a : Nat} (h : inWindow c b a = true) :
    locate c a = .word b ((a - bankBase b) / 8) := by
  have habove : ¬ a < 0x010000 := by
    have := bankBase_ge b
    rw [inWindow_iff] at h
    omega
  cases hfind : allBanks.find? (fun b => inWindow c b a) with
  | none => exact absurd h (List.find?_eq_none.mp hfind b (mem_allBanks b))
  | some b' =>
    obtain rfl : b' = b := inWindow_unique h (List.find?_some (p := fun b => inWindow c b a) hfind)
    simp only [locate, habove, if_false, hfind]

theorem inWindow_bankAddr {c : Config} {b : Bank} {k : Nat} (hk : k < bankWords c b) :
    inWindow c b (bankAddr b k) = true := by
  rw [inWindow_iff, bankAddr]
  omega

theorem locate_bankAddr {c : Config} {b : Bank} {k : Nat} (hk : k < bankWords c b) :
    locate c (bankAddr b k) = .word b k := by
  rw [locate_of_inWindow (inWindow_bankAddr hk), bankAddr, Nat.add_sub_cancel_left,
    Nat.mul_div_cancel_left k (by decide)]

theorem locate_unmapped {c : Config} {a : Nat} (habove : 0x010000 ≤ a) (h : mappedByte c a = false) :
    locate c a = .unmapped := by
  have hfind : allBanks.find? (fun b => inWindow c b a) = none := by
    rw [List.find?_eq_none]
    intro b _ hb
    exact absurd ((mappedByte_iff c a).mpr ⟨b, hb⟩) (by simp [h])
  simp only [locate, Nat.not_lt.mpr habove, if_false, hfind]

theorem locate_reserved {c : Config} {a : Nat} (hlo : 0xB0 ≤ a) (hhi : a < 0x010000) : locate c a = .reserved := by
  have hfind : allRegs.find? (fun r => regOffset r == a) = none := by
    rw [List.find?_eq_none]
    intro r _ hr
    have := regOffset_lt r
    rw [beq_iff_eq] at hr
    omega
  simp only [locate, hhi, if_true, hfind]

/-- Only its own offset leads to a register. -/
theorem regOffset_of_locate {c : Config} {a : Nat} {r : Reg} (h : locate c a = .register r) : regOffset r = a := by
  unfold locate at h
  split at h
  · split at h
    · next r' hr =>
      obtain rfl : r' = r := by simpa using h
      simpa using List.find?_some hr
    · cases h
  · split at h <;> cases h

theorem eq_regAddr_of_locate {c : Config} {a : BusAddr} {r : Reg} (h : locate c a.toNat = .register r) :
    a = regAddr r := by
  refine BitVec.eq_of_toNat_eq ?_
  rw [← regOffset_of_locate h]
  cases r <;> rfl

/-- The registers served while BUSY lie below 0x28 (20_memory.md R66). -/
theorem regBlocked_of_le_regOffset {r : Reg} (h : 0x28 ≤ regOffset r) : regBlocked r = true := by
  revert h
  cases r <;> decide

/-! ### The form of an access -/

theorem legal_iff (t : Transaction) : t.legal = true ↔ t.strobe = 0xFF ∧ t.addr.toNat % 8 = 0 := by
  simp [Transaction.legal, Transaction.fullStrobe, Transaction.aligned]

theorem legal_read_aligned {a : BusAddr} (ha : a.toNat % 8 = 0) : (Transaction.read a 0xFF).legal = true :=
  (legal_iff _).mpr ⟨rfl, ha⟩

theorem legal_write_aligned {a : BusAddr} (ha : a.toNat % 8 = 0) (v : Word) :
    (Transaction.write a 0xFF v).legal = true :=
  (legal_iff _).mpr ⟨rfl, ha⟩

theorem serve_read (a : BusAddr) (b : BitVec 8) (s : State) :
    serve (.read a b) s = respond (readResponse s (.read a b)) s := rfl

theorem serve_write (a : BusAddr) (b : BitVec 8) (v : Word) (s : State) :
    serve (.write a b v) s =
      respond (writeEffect s (.write a b v) v).2 (writeEffect s (.write a b v) v).1 := rfl

theorem serve_read_illegal {a : BusAddr} {b : BitVec 8} (h : (Transaction.read a b).legal = false) (s : State) :
    serve (.read a b) s = respond (.read .error 0) s := by
  simp only [serve_read, readResponse, h, if_true]

theorem serve_write_illegal {a : BusAddr} {b : BitVec 8} {v : Word} (h : (Transaction.write a b v).legal = false)
    (s : State) : serve (.write a b v) s = respond (.write .error) s := by
  simp only [serve_write, writeEffect, h, if_true]

/-- A Read answers ERROR with data 0, or OKAY with data (20_memory.md R62). -/
theorem readResponse_cases (s : State) (t : Transaction) :
    readResponse s t = .read .error 0 ∨ ∃ d, readResponse s t = .read .okay d := by
  unfold readResponse
  split
  · exact .inl rfl
  · split
    · exact .inl rfl
    all_goals
      split
      · exact .inl rfl
      · exact .inr ⟨_, rfl⟩

/-- Settles O43: a Read only records its answer, and an ill-formed access is refused before its address is looked at. -/
theorem readsAndBadFormsChangeNothing : Obligations.ReadsAndBadFormsChangeNothing := by
  refine ⟨fun s a b => ?_, fun s a b v hbad => ?_⟩
  · rw [serve_read]
    rcases readResponse_cases s (.read a b) with h | ⟨d, h⟩ <;> rw [h]
    · exact ⟨.error, 0, rfl⟩
    · exact ⟨.okay, d, rfl⟩
  · have hillegal (t : Transaction) (hstrobe : t.strobe = b) (haddr : t.addr = a) : t.legal = false := by
      rw [← Bool.not_eq_true, legal_iff, hstrobe, haddr]
      tauto
    exact ⟨serve_read_illegal (hillegal _ rfl rfl) s, serve_write_illegal (hillegal _ rfl rfl) s⟩

/-- Settles O44: the cases of an answer to a Read, and of what a Write does; the overrun is the one ERROR with an
effect, and only its own address leads to CMD. -/
theorem errorResponsesHaveNoEffect : Obligations.ErrorResponsesHaveNoEffect := by
  rintro s t (⟨a, b⟩ | ⟨a, b, v⟩) rfl
  · rw [serve_read]
    rcases readResponse_cases s (.read a b) with h | ⟨d', h⟩ <;> rw [h]
    · refine ⟨fun d hd => ?_, nofun⟩
      cases hd
      exact ⟨rfl, rfl⟩
    · exact ⟨nofun, nofun⟩
  · rw [serve_write]
    rcases writeEffect_cases s (.write a b v) v with
      h | h | ⟨-, hbusy, hcmd, h⟩ | ⟨-, r, -, -, h⟩ | ⟨-, -, bank, k, -, -, h⟩ <;> rw [h]
    · exact ⟨nofun, fun _ => .inl rfl⟩
    · exact ⟨nofun, nofun⟩
    · refine ⟨nofun, fun _ => .inr ⟨hbusy, ?_, rfl⟩⟩
      exact eq_regAddr_of_locate hcmd
    · exact ⟨nofun, nofun⟩
    · exact ⟨nofun, nofun⟩

/-! ### Reserved offsets and unmapped addresses -/

/-- An unmapped address gets ERROR in every form of access, BUSY or not (20_memory.md R68). -/
theorem serve_unmapped {s : State} {a : BusAddr} (h : locate s.config a.toNat = .unmapped) (v : Word) :
    serve (.read a 0xFF) s = respond (.read .error 0) s ∧
      serve (.write a 0xFF v) s = respond (.write .error) s := by
  constructor
  · simp only [serve_read, readResponse, Transaction.addr, h, ite_self]
  · simp only [serve_write, writeEffect, Transaction.addr, h, ite_self]

/-- A reserved offset reads 0 and ignores writes while idle (10_state.md R36). -/
theorem serve_reserved_idle {s : State} {a : BusAddr} (ha : a.toNat % 8 = 0) (hidle : s.status.busy = false)
    (h : locate s.config a.toNat = .reserved) (v : Word) :
    serve (.read a 0xFF) s = respond (.read .okay 0) s ∧
      serve (.write a 0xFF v) s = respond (.write .okay) s := by
  constructor
  · simp only [serve_read, readResponse, legal_read_aligned ha, Transaction.addr, h, hidle, Bool.true_eq_false,
      Bool.false_eq_true, if_false]
  · simp only [serve_write, writeEffect, legal_write_aligned ha, Transaction.addr, h, hidle, Bool.true_eq_false,
      Bool.false_eq_true, if_false]

/-- While BUSY an access gets ERROR and has no effect, unless it leads to a register that is not blocked
(20_memory.md R66). -/
theorem serve_blocked {s : State} {a : BusAddr} (hbusy : s.status.busy = true)
    (hblocked : ∀ r, locate s.config a.toNat = .register r → regBlocked r = true) (v : Word) :
    serve (.read a 0xFF) s = respond (.read .error 0) s ∧
      serve (.write a 0xFF v) s = respond (.write .error) s := by
  cases hloc : locate s.config a.toNat with
  | unmapped => exact serve_unmapped hloc v
  | register r =>
    obtain rfl : a = regAddr r := eq_regAddr_of_locate hloc
    have hr := hblocked r hloc
    refine ⟨?_, serve_write_regAddr_blocked hbusy hr v⟩
    rw [serve_read_regAddr, hbusy, hr]
    rfl
  | reserved | word =>
    constructor
    · simp only [serve_read, readResponse, Transaction.addr, hloc, hbusy, if_true, ite_self]
    · simp only [serve_write, writeEffect, Transaction.addr, hloc, hbusy, if_true, ite_self]

/-- Settles O48: the address map leads such an address to no window and to no register. -/
theorem unmappedAndReserved : Obligations.UnmappedAndReserved := by
  intro s a v ha
  refine ⟨fun habove hunmapped => serve_unmapped (locate_unmapped habove hunmapped) v, fun hlo hhi => ?_⟩
  have hloc : locate s.config a.toNat = .reserved := locate_reserved hlo (by omega)
  refine ⟨fun hidle => serve_reserved_idle ha hidle hloc v, fun hbusy => serve_blocked hbusy ?_ v⟩
  rw [hloc]
  nofun

/-! ### While BUSY -/

/-- A Write to a register that is not blocked has the register's effect, BUSY or not; CMD is blocked in its own way. -/
theorem serve_write_regAddr_open {r : Reg} (hr : regBlocked r = false) (hcmd : r ≠ .cmd) (s : State) (v : Word) :
    serve (.write (regAddr r) 0xFF v) s = respond (.write .okay) (writeReg v s r) := by
  have heffect : writeEffect s (.write (regAddr r) 0xFF v) v = (writeReg v s r, .write .okay) := by
    simp only [writeEffect, legal_write_regAddr, Transaction.addr, locate_regAddr]
    cases r <;> simp [regBlocked] at hr hcmd ⊢
  rw [serve_write, heffect]

/-- A Write to CMD while BUSY gets ERROR and sets OVERRUN (10_state.md R25). -/
theorem serve_write_cmd_busy {s : State} (hbusy : s.status.busy = true) (v : Word) :
    serve (.write (regAddr .cmd) 0xFF v) s = respond (.write .error) (overrun s) := by
  have heffect : writeEffect s (.write (regAddr .cmd) 0xFF v) v = (overrun s, .write .error) := by
    simp only [writeEffect, legal_write_regAddr, Transaction.addr, locate_regAddr, hbusy]
    rfl
  rw [serve_write, heffect]

/-- PEND after a write to IRQ: cleared by a 1 in bit 0 (10_state.md R30). -/
theorem writeIrq_eq (v : Word) (s : State) : writeIrq v s = { s with irqPend := s.irqPend && !v.getLsbD 0 } := by
  unfold writeIrq
  cases hbit : v.getLsbD 0 with
  | true => rw [if_pos rfl, Bool.not_true, Bool.and_false, acknowledge]
  | false => rw [if_neg nofun, Bool.not_false, Bool.and_true]

/-- Settles O45: no register below 0x28 is blocked, and everything from there on is. -/
theorem busyServesFiveRegisters : Obligations.BusyServesFiveRegisters := by
  intro s hbusy
  have hwrite (r : Reg) (hr : regBlocked r = false) (hcmd : r ≠ .cmd) (v : Word) :=
    serve_write_regAddr_open hr hcmd s v
  refine ⟨?_, ?_, fun v => ?_, fun v hbit => ?_, fun v hbit => ?_, serve_write_cmd_busy hbusy, fun a v _ hlo => ?_⟩
  · rintro r (rfl | rfl | rfl | rfl | rfl) <;> rw [serve_read_regAddr, hbusy] <;> rfl
  · rintro v r (rfl | rfl)
    · exact hwrite .id rfl nofun v
    · exact hwrite .status rfl nofun v
  · rw [hwrite .irq rfl nofun, writeReg, writeIrq_eq]
    rfl
  · rw [hwrite .ctrl rfl nofun, writeReg, writeCtrl, if_neg (Bool.eq_false_iff.mp hbit)]
    rfl
  · rw [hwrite .ctrl rfl nofun, writeReg, writeCtrl, if_pos hbit]
    rfl
  · refine serve_blocked hbusy (fun r hr => regBlocked_of_le_regOffset ?_) v
    rwa [regOffset_of_locate hr]

/-- Everything a host transaction can do to the state while a command is in flight, apart from the recorded answer
(20_memory.md R66). -/
inductive BusyEffect (s : State) : State → Prop
  /-- A Read, an ERROR, or a Write that is ignored. -/
  | nothing : BusyEffect s s
  /-- A write to CMD. -/
  | overrun : BusyEffect s (overrun s)
  /-- A write to CTRL with bit 1 set: the command is dropped. -/
  | softReset : BusyEffect s (softReset s)
  /-- A write to CTRL with bit 1 clear. -/
  | irqEnable (b : Bool) : BusyEffect s { s with irqEn := b }
  /-- A write to IRQ. -/
  | irqPending (b : Bool) : BusyEffect s { s with irqPend := b }

theorem serve_busyEffect (x : Transaction) {s : State} (hbusy : s.status.busy = true) :
    ∃ r u, serve x s = respond r u ∧ BusyEffect s u := by
  cases x with
  | read addr strobe => exact ⟨_, s, rfl, .nothing⟩
  | write addr strobe v =>
    refine ⟨_, _, rfl, ?_⟩
    rcases writeEffect_cases s (.write addr strobe v) v with
      he | he | ⟨-, -, -, he⟩ | ⟨-, r, -, hr, he⟩ | ⟨-, hidle, -⟩
    · rw [he]; exact .nothing
    · rw [he]; exact .nothing
    · rw [he]; exact .overrun
    · rw [he]
      rcases hr hbusy with rfl | rfl | rfl | rfl
      · exact .nothing
      · exact .nothing
      · simp only [writeReg, writeCtrl]
        split
        · exact .softReset
        · exact .irqEnable _
      · simp only [writeReg, writeIrq_eq]
        exact .irqPending _
    · rw [hbusy] at hidle
      cases hidle

/-- No host transaction writes the memories of a running command. -/
theorem BusyEffect.mem {s u : State} (h : BusyEffect s u) : u.mem = s.mem := by cases h <;> rfl

theorem step_host {s : State} {x : Transaction} {rest : List Event} (h : s.schedule = .host x :: rest) :
    step s = .next (serve x { s with schedule := rest }) := by
  simp only [step, h]

/-- Settles O60: while BUSY a host transaction reaches OVERRUN and the interrupt bits only, or it is a soft reset, which
keeps the memories and ends the command. -/
theorem hostCannotDisturbCommand : Obligations.HostCannotDisturbCommand := by
  intro s x rest hbusy hschedule
  obtain ⟨r, u, hserve, heffect⟩ := serve_busyEffect x (s := { s with schedule := rest }) hbusy
  refine ⟨respond r u, by rw [step_host hschedule, hserve], heffect.mem, fun hflight => ?_⟩
  cases heffect with
  | softReset => cases hflight
  | nothing | overrun | irqEnable | irqPending =>
    exact ⟨rfl, rfl, rfl, rfl, rfl, rfl, rfl, rfl, ⟨rfl, rfl, rfl⟩, ⟨rfl, rfl⟩, rfl, rfl⟩

/-! ### The words of a window -/

theorem toNat_wordAddr {c : Config} {b : Bank} {k : Nat} (hk : k < bankWords c b) :
    (wordAddr b k).toNat = bankAddr b k := by
  have := window_end_le c b
  rw [wordAddr, BitVec.toNat_ofNat]
  exact Nat.mod_eq_of_lt (by rw [bankAddr]; omega)

theorem bankAddr_aligned (b : Bank) (k : Nat) : bankAddr b k % 8 = 0 := by
  rw [bankAddr, Nat.add_mul_mod_self_left]
  cases b <;> rfl

section
variable {s : State} {b : Bank} {k : Nat} (hidle : s.status.busy = false) (hk : k < bankWords s.config b)
include hidle hk

theorem serve_read_wordAddr : serve (.read (wordAddr b k) 0xFF) s = respond (.read .okay (bankRead b k s)) s := by
  have ha := toNat_wordAddr hk
  simp only [serve_read, readResponse, legal_read_aligned (ha ▸ bankAddr_aligned b k), Transaction.addr, ha,
    locate_bankAddr hk, hidle, Bool.true_eq_false, Bool.false_eq_true, if_false]

/-- A Write to a word while idle: IN and OUT store it, a twiddle table ignores it (20_memory.md R67). -/
theorem serve_write_wordAddr (v : Word) : serve (.write (wordAddr b k) 0xFF v) s =
    respond (.write .okay) (if hostWritable b then bankWrite b k v s else s) := by
  have ha := toNat_wordAddr hk
  simp only [serve_write, writeEffect, legal_write_aligned (ha ▸ bankAddr_aligned b k), Transaction.addr, ha,
    locate_bankAddr hk, hidle]
  cases hostWritable b <;> rfl

end

/-- Settles O46: each row of the map is its memory's base and word count, and an access to a word is the bank's own read
or write. -/
theorem windowsReadAndWrite : Obligations.WindowsReadAndWrite := by
  refine ⟨fun c => ?_, fun s b k v hidle hk => ⟨serve_read_wordAddr hidle hk, fun hb hwf => ?_, fun hin hout => ?_⟩⟩
  · change _ ∧ _ ∧ _ ∧ (∀ row ∈ allBanks.map (fun b => (b, bankBase b, bankWords c b)), _) ∧
      (∀ b, ∃ row ∈ allBanks.map (fun b => (b, bankBase b, bankWords c b)), row.1 = b) ∧
      ∀ a, _ ↔ ∃ row ∈ allBanks.map (fun b => (b, bankBase b, bankWords c b)), _
    have hlog := c.logNMaxPred.isLt
    refine ⟨Nat.le_add_left 1 _, hlog, rfl, ?_, fun b => ?_, fun a => ?_⟩
    · rw [List.forall_mem_map]
      exact fun b _ => ⟨rfl, rfl, fun k => ⟨rfl, toNat_wordAddr⟩⟩
    · exact ⟨_, List.mem_map_of_mem (mem_allBanks b), rfl⟩
    · simp only [mappedByte_iff, inWindow_iff, List.mem_map, mem_allBanks, true_and, exists_exists_eq_and]
  · have hstore : hostWritable b = true := by rcases hb with rfl | rfl <;> rfl
    refine ⟨(bankWrite b k v s).mem, ?_, wf_bankWrite b k v hwf, ?_, fun a ha => readByte_bankWrite_other v ha⟩
    · rw [serve_write_wordAddr hidle hk, if_pos hstore, bankWrite_eq]
      rfl
    · rw [← bankWrite_eq]
      exact bankRead_bankWrite_same v hk hwf
  · have hignore : hostWritable b = false := by
      cases b with
      | inBank => exact absurd rfl hin
      | outBank => exact absurd rfl hout
      | twnFwd | twnInv | twfFwd | twfInv => rfl
    rw [serve_write_wordAddr hidle hk, hignore]
    rfl

/-! ### The byte lanes of a word -/

/-- Byte lane 0 of a word put together from bytes is its last one. -/
theorem lane_zero_append {n : Nat} (x : BitVec n) (y : Byte) : (x ++ y).extractLsb' (8 * 0) 8 = y :=
  BitVec.extractLsb'_append_eq_right

/-- The other lanes are those of the bytes before it. -/
theorem lane_succ_append {n : Nat} (x : BitVec n) (y : Byte) (j : Nat) :
    (x ++ y).extractLsb' (8 * (j + 1)) 8 = x.extractLsb' (8 * j) 8 := by
  rw [BitVec.extractLsb'_append_eq_of_le (by omega)]
  rfl

/-- Lane `j` of the word read at an address is the byte at address + j (20_memory.md R64). -/
theorem lane_readWord (m : Memory) (a : Nat) {j : Nat} (hj : j < 8) :
    (m.readWord a).extractLsb' (8 * j) 8 = m.readByte (a + j) := by
  unfold Memory.readWord
  interval_cases j <;> simp only [lane_zero_append, lane_succ_append, Nat.add_zero]
  exact BitVec.extractLsb'_eq_self

/-- Settles O47: a bank word is the memory word at its address, whose lanes are its bytes when read and when written. -/
theorem littleEndianWords : Obligations.LittleEndianWords := by
  intro s b k hk
  refine ⟨fun j hj => ?_, fun hwf v j hj => ?_⟩
  · rw [bankRead, if_pos hk]
    exact lane_readWord s.mem (bankAddr b k) hj
  · rw [byteAt, bankWrite, if_pos hk]
    exact readByte_writeWord_same (bankAddr b k) v hj hwf

end Sys2Proof.Machine
end

section
/-! The decoder against the opcode map and the encoder (30_encoding.md R90, R93, R95), and the engine's turn on a word
that does not decode (R95, 40_control.md R111). -/

namespace Sys2Proof

/-! ### The rows of the opcode map -/

theorem decode_of_mem_opcodeTable : ∀ r ∈ opcodeTable, decode r.word = .ok r.instr := by decide

theorem word_eq_encode_of_mem_opcodeTable : ∀ r ∈ opcodeTable, r.word = encode r.instr := by decide

theorem encode_mem_opcodeTable (i : Instr) : ⟨encode i, i⟩ ∈ opcodeTable := by cases i <;> decide

/-- A word decodes only by a row of the map that holds it (30_encoding.md R93). -/
theorem mem_opcodeTable_of_decode {c : Word} {i : Instr} (h : decode c = .ok i) : ⟨c, i⟩ ∈ opcodeTable := by
  simp only [decode] at h
  split at h
  · next r hfind =>
    have hrow : r = ⟨c, i⟩ := by
      obtain ⟨w, j⟩ := r
      cases h
      have hword : w = c := by simpa using List.find?_some hfind
      rw [hword]
    exact hrow ▸ List.mem_of_find?_eq_some hfind
  · cases h

@[simp] theorem decode_encode (i : Instr) : decode (encode i) = .ok i :=
  decode_of_mem_opcodeTable _ (encode_mem_opcodeTable i)

theorem decode_eq_ok_iff {c : Word} {i : Instr} : decode c = .ok i ↔ c = encode i :=
  ⟨fun h => word_eq_encode_of_mem_opcodeTable _ (mem_opcodeTable_of_decode h), fun h => h ▸ decode_encode i⟩

/-- Settles O1: every command has its row in the map, and every row holds the encoding of its command. -/
theorem decodeAndEncodeAgree : Obligations.DecodeAndEncodeAgree :=
  ⟨fun i _ => decode_encode i, fun _ _ => decode_eq_ok_iff.mp⟩

/-- Settles O3: each word written out is the encoding of its command. -/
theorem sampleWordsDecode : Obligations.SampleWordsDecode :=
  ⟨decode_encode .nop, decode_encode .fftInit, decode_encode .nttInv, decode_encode .bitrevC, decode_encode .pow,
    decode_encode .bitrevn⟩

/-! ### The fields of a word -/

/-- The three fields make up the whole word (30_encoding.md R90). -/
@[simp] theorem packFields_fieldsOf (c : Word) : packFields (fieldsOf c) = c := by
  simp only [packFields, fieldsOf]
  rw [BitVec.extractLsb'_append_extractLsb'_eq_extractLsb' (by rfl),
    BitVec.extractLsb'_append_extractLsb'_eq_extractLsb' (by rfl)]
  exact BitVec.extractLsb'_eq_self

theorem fieldsOf_injective : Function.Injective fieldsOf := Function.LeftInverse.injective packFields_fieldsOf

/-- The per-command facts about the encoding, for every command. -/
theorem encodingFits (i : Instr) : Laws.EncodingFits.Statement i := by
  cases i
  exacts [Laws.EncodingFits.nop, Laws.EncodingFits.nttInit, Laws.EncodingFits.fftInit, Laws.EncodingFits.nttFwd,
    Laws.EncodingFits.fftFwd, Laws.EncodingFits.nttInv, Laws.EncodingFits.fftInv, Laws.EncodingFits.nttRelease,
    Laws.EncodingFits.fftRelease, Laws.EncodingFits.bitrevW, Laws.EncodingFits.bitrevC, Laws.EncodingFits.isprime,
    Laws.EncodingFits.primroot, Laws.EncodingFits.rootunity, Laws.EncodingFits.egcd, Laws.EncodingFits.modinv,
    Laws.EncodingFits.pow, Laws.EncodingFits.ispow2, Laws.EncodingFits.bitrevn]

/-- The map has a row for every OPCODE and DOM that the checks allow: 0x00 and 0x10 to 0x17 with DOM = 0, and 0x01 to
0x05 with either (30_encoding.md R93). -/
theorem opcodeTable_complete : ∀ (opcode : BitVec 8) (dom : BitVec 1), (CmdFields.mk 0 dom opcode).wellFormed = true →
    ∃ r ∈ opcodeTable, fieldsOf r.word = ⟨0, dom, opcode⟩ := by decide

theorem CmdFields.wellFormed_iff {f : CmdFields} :
    f.wellFormed = true ↔ f.rsvZero = true ∧ f.opcodeAssigned = true ∧ f.domLegal = true := by
  simp only [CmdFields.wellFormed, Bool.and_eq_true, and_assoc]

/-- A word whose fields pass the three checks has a row of the map (30_encoding.md R95). -/
theorem exists_decode_of_wellFormed {c : Word} (h : (fieldsOf c).wellFormed = true) : ∃ i, decode c = .ok i := by
  obtain ⟨hrsv, -, -⟩ := CmdFields.wellFormed_iff.mp h
  have hfields : fieldsOf c = ⟨0, (fieldsOf c).dom, (fieldsOf c).opcode⟩ := by
    rw [← eq_of_beq hrsv]
  obtain ⟨r, hr, hrow⟩ := opcodeTable_complete _ _ (hfields ▸ h)
  have hword : r.word = c := fieldsOf_injective (hrow.trans hfields.symm)
  exact ⟨r.instr, hword ▸ decode_of_mem_opcodeTable r hr⟩

theorem exists_decode_iff {c : Word} : (∃ i, decode c = .ok i) ↔ (fieldsOf c).wellFormed = true := by
  refine ⟨fun ⟨i, hi⟩ => ?_, exists_decode_of_wellFormed⟩
  rw [decode_eq_ok_iff.mp hi]
  exact (encodingFits i).2

theorem eq_rejection_of_decode {c : Word} {e : DecodeError} (h : decode c = .error e) : e = rejection c := by
  simp only [decode] at h
  split at h
  · cases h
  · cases h; rfl

/-- The name given to a word is that of a check its fields fail: the last name is left for a word that passes the other
two, but not all three. -/
theorem rejection_names_failed_check {c : Word} (h : (fieldsOf c).wellFormed = false) :
    (rejection c = .reservedBits ∧ (fieldsOf c).rsvZero = false) ∨
    (rejection c = .unassignedOpcode ∧ (fieldsOf c).opcodeAssigned = false) ∨
    (rejection c = .illegalDomain ∧ (fieldsOf c).domLegal = false) := by
  simp only [rejection]
  cases hrsv : (fieldsOf c).rsvZero with
  | false => exact .inl ⟨rfl, rfl⟩
  | true =>
    cases hop : (fieldsOf c).opcodeAssigned with
    | false => exact .inr (.inl ⟨rfl, rfl⟩)
    | true =>
      have hdom : (fieldsOf c).domLegal = false := by simpa [CmdFields.wellFormed, hrsv, hop] using h
      exact .inr (.inr ⟨rfl, hdom⟩)

/-- Settles O2: the opcode map has a row for every legal choice of the fields and for no other, and a word with no row
fails one of the checks. -/
theorem decodableIffFieldsLegal : Obligations.DecodableIffFieldsLegal := by
  intro c
  refine ⟨exists_decode_iff, fun e he => ?_⟩
  have hillegal : (fieldsOf c).wellFormed = false := by
    rw [← Bool.not_eq_true, ← exists_decode_iff]
    rintro ⟨i, hi⟩
    cases hi.symm.trans he
  exact eq_rejection_of_decode he ▸ rejection_names_failed_check hillegal

end Sys2Proof

namespace Sys2Proof.Machine

/-! ### The engine's turn on an illegal word -/

theorem step_engine {s : State} {rest : List Event} (h : s.schedule = .engine :: rest) :
    step s = runEngine { s with schedule := rest } := by
  simp only [step, h]

theorem runEngine_illegal {s : State} {e : DecodeError} (hbusy : s.status.busy = true) (h : decode s.cmd = .error e) :
    runEngine s = raise .illegalCommand s := by
  simp only [runEngine, hbusy, h, if_true]

/-- Settles O5: the engine's event raises ILLEGAL_COMMAND, which is a completion and nothing else. -/
theorem illegalWordCompletes : Obligations.IllegalWordCompletes := by
  intro s e rest hbusy hdecode hschedule
  rw [step_engine hschedule, runEngine_illegal (s := { s with schedule := rest }) hbusy hdecode]
  rfl

end Sys2Proof.Machine
end

section
/-! The frame of every command (30_encoding.md R94, 10_state.md R33 and R40, 20_memory.md R69): what each operation on
the state may change, and that each command uses only the operations it may. -/

namespace Sys2Proof.Machine

/-- Between `s` and `t` only what command `i` may write has changed. -/
structure Framed (i : Instr) (s t : State) : Prop where
  operands : OperandsKept s t
  results : isUtility i = false → ResultsKept s t
  gen : drawsWitnesses i = false → t.gen = s.gen
  ntt : i ≠ .nttInit → i ≠ .nttRelease → NttKept s t
  fft : i ≠ .fftInit → i ≠ .fftRelease → FftKept s t
  mem : ∀ a, (∀ b ∈ writtenBanks i, inWindow s.config b a = false) → byteAt t a = byteAt s a

variable {i : Instr} {s t u : State}

theorem OperandsKept.trans (hst : OperandsKept s t) (htu : OperandsKept t u) : OperandsKept s u := by
  grind

theorem Framed.refl (i : Instr) (s : State) : Framed i s s where
  operands := ⟨rfl, rfl, rfl, rfl, rfl, rfl, rfl, rfl, rfl, rfl, rfl, rfl⟩
  results _ := ⟨rfl, rfl, rfl⟩
  gen _ := rfl
  ntt _ _ := ⟨rfl, rfl⟩
  fft _ _ := ⟨rfl, rfl⟩
  mem _ _ := rfl

theorem Framed.trans (hst : Framed i s t) (htu : Framed i t u) : Framed i s u where
  operands := hst.operands.trans htu.operands
  results h := by
    obtain ⟨h0, h1, h2⟩ := hst.results h
    obtain ⟨k0, k1, k2⟩ := htu.results h
    exact ⟨k0.trans h0, k1.trans h1, k2.trans h2⟩
  gen h := (htu.gen h).trans (hst.gen h)
  ntt h h' := ⟨(htu.ntt h h').1.trans (hst.ntt h h').1, (htu.ntt h h').2.trans (hst.ntt h h').2⟩
  fft h h' := ⟨(htu.fft h h').1.trans (hst.fft h h').1, (htu.fft h h').2.trans (hst.fft h h').2⟩
  mem a h := by
    have hconfig : t.config = s.config := hst.operands.1
    exact (htu.mem a (hconfig ▸ h)).trans (hst.mem a h)

/-! ### What each operation on the state changes -/

/-- A completion changes flags that are in no command's frame. -/
theorem Framed.complete (h : Framed i s t) (e : BitVec 8) : Framed i s (complete e t) :=
  h.trans { Framed.refl i t with }

theorem Framed.setResults (h : Framed i s t) (hi : isUtility i = true) (r0 r1 r2 : Word) :
    Framed i s (setResults r0 r1 r2 t) :=
  h.trans { Framed.refl i t with results := fun hnot => Bool.noConfusion (hi.symm.trans hnot) }

theorem Framed.setGen (h : Framed i s t) (hi : drawsWitnesses i = true) (g : WitnessGen) : Framed i s (setGen g t) :=
  h.trans { Framed.refl i t with gen := fun hnot => Bool.noConfusion (hi.symm.trans hnot) }

section
variable (h : Framed i s t) (hi : i = .nttInit ∨ i = .nttRelease)
include h hi

theorem Framed.releaseNtt : Framed i s (releaseNtt t) :=
  h.trans { Framed.refl i t with ntt := fun hinit hrelease => (hi.elim hinit hrelease).elim }

theorem Framed.installNtt (c : NttContext) : Framed i s (installNtt c t) :=
  h.trans { Framed.refl i t with ntt := fun hinit hrelease => (hi.elim hinit hrelease).elim }

end

section
variable (h : Framed i s t) (hi : i = .fftInit ∨ i = .fftRelease)
include h hi

theorem Framed.releaseFft : Framed i s (releaseFft t) :=
  h.trans { Framed.refl i t with fft := fun hinit hrelease => (hi.elim hinit hrelease).elim }

theorem Framed.installFft (c : FftContext) : Framed i s (installFft c t) :=
  h.trans { Framed.refl i t with fft := fun hinit hrelease => (hi.elim hinit hrelease).elim }

end

/-- Writing a vector into a memory that the command may write changes no byte outside that memory's window. -/
theorem Framed.bankWriteAll {b : Bank} (h : Framed i s t) (hb : b ∈ writtenBanks i) (vs : List Word) :
    Framed i s (bankWriteAll b vs t) := by
  rw [bankWriteAll_eq]
  exact h.trans { Framed.refl i t with mem := fun _ houtside => readByte_bankWriteAll_outside b vs (houtside b hb) }

/-- NTT.INIT may write both twiddle tables of its domain and install its parameters (43_transform_engine.md R180). -/
theorem Framed.buildNtt (h : Framed .nttInit s t) (q n psi psiInv nInv : Nat) :
    Framed .nttInit s (buildNtt q n psi psiInv nInv t) :=
  ((h.bankWriteAll (b := .twnFwd) (by decide) _).bankWriteAll (b := .twnInv) (by decide) _).installNtt (.inl rfl) _

/-- FFT.INIT may write both twiddle tables of its domain and install its parameters (43_transform_engine.md R185). -/
theorem Framed.buildFft (h : Framed .fftInit s t) (n : Nat) : Framed .fftInit s (buildFft n t) :=
  ((h.bankWriteAll (b := .twfFwd) (by decide) _).bankWriteAll (b := .twfInv) (by decide) _).installFft (.inl rfl) _

/-! ### The shared ends of the commands -/

theorem Framed.of_succeed (hu : Framed i s u) (h : succeed u = .next t) : Framed i s t :=
  succeed_next.mp h ▸ hu.complete 0

theorem Framed.of_raise (hu : Framed i s u) {e : ErrorCode} (h : raise e u = .next t) : Framed i s t :=
  raise_next.mp h ▸ hu.complete e.code

/-- A utility command that computes one number. -/
theorem Framed.of_finishNat (hu : Framed i s u) (hi : isUtility i = true) {r : Except ErrorCode Nat}
    (h : finishNat r u = .next t) : Framed i s t := by
  rcases finishNat_next h with ⟨v, -, rfl⟩ | ⟨e, -, rfl⟩
  · exact (hu.setResults hi _ 0 0).complete 0
  · exact hu.complete e.code

/-- A transform of the NTT domain stores its output or fails a check with nothing stored. -/
theorem Framed.of_withNttEngine (hu : Framed i s u) (h : withNttEngine s u = .next t) : Framed i s t := by
  rcases withNttEngine_next h with ⟨-, rfl⟩ | ⟨-, -, rfl⟩ | ⟨-, -, rfl⟩
  · exact (Framed.refl i s).complete _
  · exact (Framed.refl i s).complete _
  · exact hu.complete 0

/-- A transform of the FFT domain stores its output or fails a check with nothing stored. -/
theorem Framed.of_withFftEngine (hu : Framed i s u) (h : withFftEngine s u = .next t) : Framed i s t := by
  rcases withFftEngine_next h with ⟨-, rfl⟩ | ⟨-, -, rfl⟩ | ⟨-, -, rfl⟩
  · exact (Framed.refl i s).complete _
  · exact (Framed.refl i s).complete _
  · exact hu.complete 0

/-- A vector bit reversal stores its output or fails a check with nothing stored. -/
theorem Framed.of_withBitrevLength {body : Nat → State} (hbody : ∀ n, Framed i s (body n))
    (h : withBitrevLength s body = .next t) : Framed i s t := by
  rcases withBitrevLength_next h with ⟨-, rfl⟩ | ⟨-, -, rfl⟩ | ⟨-, -, rfl⟩
  · exact (Framed.refl i s).complete _
  · exact (Framed.refl i s).complete _
  · exact (hbody _).complete 0

/-! ### The commands -/

/-- Every utility command starts by clearing the results (41_number_theory.md R120). -/
theorem framed_clearResults (hi : isUtility i = true) (s : State) : Framed i s (clearResults s) :=
  (Framed.refl i s).setResults hi 0 0 0

/-- The three utility commands that test primality then draw (41_number_theory.md R121). -/
theorem framed_draw (hi : isUtility i = true) (hdraws : drawsWitnesses i = true) (x : Int) (s : State) :
    Framed i s (setGen (testPrime x s).2 (clearResults s)) :=
  (framed_clearResults hi s).setGen hdraws _

/-- A vector command stores its output in OUT. -/
theorem framed_output (hi : .outBank ∈ writtenBanks i) (vs : List Word) : Framed i s (bankWriteAll .outBank vs s) :=
  (Framed.refl i s).bankWriteAll hi vs

theorem execNttInit_framed (h : execNttInit s = .next t) : Framed .nttInit s t := by
  have hreleased : Framed .nttInit s (releaseNtt s) := (Framed.refl _ s).releaseNtt (.inl rfl)
  have hdrawn := hreleased.setGen rfl (testPrime (sint s.opa) s).2
  rcases execNttInit_next h with
    ⟨-, rfl⟩ | ⟨-, -, rfl⟩ | ⟨-, -, -, rfl⟩ | ⟨-, -, -, e, -, rfl⟩ | ⟨-, -, -, psi, psiInv, nInv, -, rfl⟩
  · exact hreleased.complete _
  · exact hreleased.complete _
  · exact hdrawn.complete _
  · exact hdrawn.complete _
  · exact (hdrawn.buildNtt _ _ psi psiInv nInv).complete 0

theorem execFftInit_framed (h : execFftInit s = .next t) : Framed .fftInit s t := by
  have hreleased : Framed .fftInit s (releaseFft s) := (Framed.refl _ s).releaseFft (.inl rfl)
  rcases execFftInit_next h with ⟨-, rfl⟩ | ⟨-, -, rfl⟩ | ⟨-, -, rfl⟩
  · exact hreleased.complete _
  · exact hreleased.complete _
  · exact (hreleased.buildFft _).complete 0

theorem execPrimroot_framed (h : execPrimroot s = .next t) : Framed .primroot s t := by
  have hdrawn := framed_draw (i := .primroot) rfl rfl (sint s.opa) s
  rcases execPrimroot_next h with ⟨-, rfl⟩ | ⟨-, h⟩
  · exact hdrawn.complete _
  · exact hdrawn.of_finishNat rfl h

theorem execRootunity_framed (h : execRootunity s = .next t) : Framed .rootunity s t := by
  have hdrawn := framed_draw (i := .rootunity) rfl rfl (sint s.opa) s
  rcases execRootunity_next h with ⟨-, rfl⟩ | ⟨-, h⟩
  · exact hdrawn.complete _
  · exact hdrawn.of_finishNat rfl h

theorem execEgcd_framed (h : execEgcd s = .next t) : Framed .egcd s t := by
  have hcleared := framed_clearResults (i := .egcd) rfl s
  simp only [execEgcd] at h
  split at h
  · exact hcleared.of_raise h
  · exact (hcleared.setResults rfl _ _ _).of_succeed h

theorem execModinv_framed (h : execModinv s = .next t) : Framed .modinv s t := by
  have hcleared := framed_clearResults (i := .modinv) rfl s
  simp only [execModinv] at h
  split at h
  · exact hcleared.of_raise h
  · exact hcleared.of_finishNat rfl h

theorem execPow_framed (h : execPow s = .next t) : Framed .pow s t := by
  have hcleared := framed_clearResults (i := .pow) rfl s
  simp only [execPow] at h
  split at h
  · exact hcleared.of_raise h
  · split at h
    · exact hcleared.of_raise h
    · split at h <;> exact hcleared.of_finishNat rfl h

theorem execBitrevn_framed (h : execBitrevn s = .next t) : Framed .bitrevn s t := by
  have hcleared := framed_clearResults (i := .bitrevn) rfl s
  simp only [execBitrevn] at h
  split at h
  · exact hcleared.of_raise h
  · exact (hcleared.setResults rfl _ 0 0).of_succeed h

/-- Every command changes only what its frame allows (30_encoding.md R94). -/
theorem exec_framed (h : exec i s = .next t) : Framed i s t := by
  cases i with
  | nop => exact (Framed.refl _ s).of_succeed h
  | nttInit => exact execNttInit_framed h
  | fftInit => exact execFftInit_framed h
  | nttFwd | nttInv => exact (framed_output (by decide) _).of_withNttEngine h
  | fftFwd | fftInv => exact (framed_output (by decide) _).of_withFftEngine h
  | nttRelease => exact ((Framed.refl _ s).releaseNtt (.inr rfl)).of_succeed h
  | fftRelease => exact ((Framed.refl _ s).releaseFft (.inr rfl)).of_succeed h
  | bitrevW | bitrevC => exact .of_withBitrevLength (fun _ => framed_output (by decide) _) h
  | isprime => exact ((framed_draw rfl rfl _ s).setResults rfl _ 0 0).of_succeed h
  | primroot => exact execPrimroot_framed h
  | rootunity => exact execRootunity_framed h
  | egcd => exact execEgcd_framed h
  | modinv => exact execModinv_framed h
  | pow => exact execPow_framed h
  | ispow2 => exact ((framed_clearResults rfl s).setResults rfl _ 0 0).of_succeed h
  | bitrevn => exact execBitrevn_framed h

/-- Settles O8: a command is a chain of operations on the state, each of which its frame allows. -/
theorem commandFrame : Obligations.CommandFrame := by
  intro i s t h
  obtain ⟨hoperands, hresults, hgen, hntt, hfft, hmem⟩ := exec_framed h
  exact ⟨hoperands, hresults, hgen, hntt, hfft, hmem⟩

end Sys2Proof.Machine
end

section
/-! The command frame (40_control.md R110 to R113, 70_reset_and_hazards.md R251): a command is accepted, the engine's
turn runs it, and it completes, because each body runs its checks and ends in `succeed` or `raise`. -/

namespace Sys2Proof.Machine

/-! ### Outcomes that are a completion -/

/-- The command completes: the outcome is a completion, with some code, of some state. -/
def Completes (o : Host.Outcome State Fault Refusal) : Prop := ∃ e b, o = .next (complete e b)

theorem completes_succeed (s : State) : Completes (succeed s) := ⟨0, s, rfl⟩

theorem completes_raise (e : ErrorCode) (s : State) : Completes (raise e s) := ⟨e.code, s, rfl⟩

/-- A command that completes on both sides of a condition completes. -/
theorem completes_ite {c : Prop} [Decidable c] {a b : Host.Outcome State Fault Refusal} (ha : Completes a)
    (hb : Completes b) : Completes (if c then a else b) := by
  split
  · exact ha
  · exact hb

/-- An operand check, which raises an error or lets the command go on. -/
theorem completes_check {c : Prop} [Decidable c] {e : ErrorCode} {s : State}
    {o : Host.Outcome State Fault Refusal} (ho : Completes o) : Completes (if c then raise e s else o) :=
  completes_ite (completes_raise e s) ho

theorem completes_finishNat (r : Except ErrorCode Nat) (s : State) : Completes (finishNat r s) := by
  cases r with
  | ok v => exact completes_succeed _
  | error e => exact completes_raise e s

/-! ### The commands -/

/-- NTT.INIT: three checks, then the engine of the computed parameters, or the error met in computing them. -/
theorem completes_execNttInit (s : State) : Completes (execNttInit s) := by
  refine completes_check (completes_check (completes_check ?_))
  split
  · exact completes_raise _ _
  · exact completes_succeed _

/-- Every command completes, from every state (40_control.md R112). -/
theorem completes_exec (i : Instr) (s : State) : Completes (exec i s) := by
  cases i with
  | nop | nttRelease | fftRelease | isprime | ispow2 => exact completes_succeed _
  | nttInit => exact completes_execNttInit s
  | egcd | bitrevn => exact completes_check (completes_succeed _)
  | fftInit | nttFwd | nttInv | fftFwd | fftInv | bitrevW | bitrevC =>
    exact completes_check (completes_check (completes_succeed _))
  | primroot | rootunity | modinv => exact completes_check (completes_finishNat _ _)
  | pow =>
    exact completes_check (completes_check (completes_ite (completes_finishNat _ _) (completes_finishNat _ _)))

/-! ### The engine's turn and the step -/

theorem runEngine_idle {s : State} (h : s.status.busy = false) : runEngine s = .next s := by
  simp only [runEngine, h, Bool.false_eq_true, if_false]

theorem runEngine_decoded {s : State} {i : Instr} (hbusy : s.status.busy = true) (h : decode s.cmd = .ok i) :
    runEngine s = exec i s := by
  simp only [runEngine, hbusy, h, if_true]

theorem step_unscheduled {s : State} (h : s.schedule = []) : step s = runEngine s := by
  simp only [step, h]

theorem step_powerOn {s : State} {c : List Host.Cell} {rest : List Event} (h : s.schedule = .powerOn c :: rest) :
    step s = .next (powerOnReset c { s with schedule := rest }) := by
  simp only [step, h]

/-- The engine's turn answers a next state: it waits while idle, and completes the command in flight otherwise. -/
theorem runEngine_total (s : State) : ∃ t, runEngine s = .next t := by
  cases hbusy : s.status.busy with
  | false => exact ⟨s, runEngine_idle hbusy⟩
  | true =>
    cases hdecode : decode s.cmd with
    | ok i =>
      obtain ⟨e, b, hexec⟩ := completes_exec i s
      exact ⟨complete e b, (runEngine_decoded hbusy hdecode).trans hexec⟩
    | error e => exact ⟨_, runEngine_illegal hbusy hdecode⟩

/-- No event of any agent stops the machine (40_control.md R112, 70_reset_and_hazards.md R251). -/
theorem step_total (s : State) : ∃ t, step s = .next t := by
  cases hschedule : s.schedule with
  | nil => rw [step_unscheduled hschedule]; exact runEngine_total s
  | cons event rest =>
    cases event with
    | engine => rw [step_engine hschedule]; exact runEngine_total _
    | host x => exact ⟨_, step_host hschedule⟩
    | powerOn c => exact ⟨_, step_powerOn hschedule⟩

/-! ### The statements -/

/-- Settles O7: whatever the code and the state completed, a completion sets the flags as R112 says. -/
theorem everyCommandCompletes : Obligations.EveryCommandCompletes := by
  refine ⟨fun i s => ?_, step_total⟩
  obtain ⟨e, b, hexec⟩ := completes_exec i s
  exact ⟨complete e b, hexec, status_completed_busy e b.status, status_completed_done e b.status,
    status_completed_err e b.status, complete_irqPend e b⟩

/-- Settles O4: the rule of a step for what the schedule begins with, then that of the engine's turn. -/
theorem stepRunsDecodedCommand : Obligations.StepRunsDecodedCommand := by
  refine ⟨fun s i hbusy hdecode _ => ⟨fun rest hschedule => ?_, fun hschedule => ?_⟩, fun s x rest => step_host,
    fun s hidle => ⟨fun rest hschedule => ?_, fun hschedule => ?_⟩⟩
  · rw [step_engine hschedule, runEngine_decoded (s := { s with schedule := rest }) hbusy hdecode]
  · rw [step_unscheduled hschedule, runEngine_decoded hbusy hdecode]
  · rw [step_engine hschedule, runEngine_idle (s := { s with schedule := rest }) hidle]
  · rw [step_unscheduled hschedule, runEngine_idle hidle]

/-- Settles O6: an idle write to a register has the register's effect, which for CMD is the acceptance. -/
theorem cmdWriteIsAccepted : Obligations.CmdWriteIsAccepted := by
  intro s c hidle
  calc serve (.write (regAddr .cmd) 0xFF c) s
      = respond (.write .okay) (writeReg c s .cmd) := serve_write_regAddr hidle .cmd c
    _ = respond (.write .okay) (accept c s) := rfl

theorem exec_nop (s : State) : exec .nop s = succeed s := rfl

/-- Settles O11: NOP has no body, so its completion with code 0 is all it does. -/
theorem nopCompletes : Obligations.NopCompletes := by
  intro s
  rw [exec_nop]
  rfl

end Sys2Proof.Machine
end

section
/-! The operands and the ends of a utility command (41_number_theory.md R120, 40_control.md R112): the range of a signed
word, the frame, and the flags of each completion. -/

namespace Sys2Proof.Machine

/-! ### Signed words -/

theorem sint_eq_toInt (v : Word) : sint v = v.toInt := by
  have hmsb : v.msb = v.getLsbD 63 := BitVec.msb_eq_getLsbD_last v
  simp only [sint, BitVec.toInt_eq_msb_cond, hmsb]
  norm_num

/-- An integer of the signed range is read back from its word (00_scope.md section 6). -/
theorem sint_bits64 {x : Int} (hlo : -2 ^ 63 ≤ x) (hhi : x < 2 ^ 63) : sint (bits64 x) = x := by
  rw [sint_eq_toInt, bits64, BitVec.toInt_ofInt]
  exact Int.bmod_eq_of_le (by norm_num at hlo ⊢; exact hlo) (by norm_num at hhi ⊢; exact hhi)

theorem bits64_natCast (n : Nat) : bits64 (n : Int) = natBits64 n := BitVec.ofInt_natCast 64 n

/-! ### The frame and the flags -/

theorem writtenBanks_of_isUtility {i : Instr} (hi : isUtility i = true) : writtenBanks i = [] := by
  revert hi
  cases i <;> decide

theorem utilityFrame_of_exec {i : Instr} {s t : State} (hi : isUtility i = true) (h : exec i s = .next t) :
    UtilityFrame s t := by
  have hframe := exec_framed h
  refine ⟨hframe.operands, hframe.ntt ?_ ?_, hframe.fft ?_ ?_, fun a => hframe.mem a fun b hb => ?_⟩
  case refine_5 =>
    rw [writtenBanks_of_isUtility hi] at hb
    exact absurd hb List.not_mem_nil
  all_goals
    rintro rfl
    cases hi

/-- A utility command that draws no witness leaves the generator alone. -/
theorem gen_of_exec {i : Instr} {s t : State} (hi : drawsWitnesses i = false) (h : exec i s = .next t) :
    t.gen = s.gen := (exec_framed h).gen hi

theorem succeeded_complete (s : State) : Succeeded (complete 0 s) := ⟨rfl, rfl, rfl, rfl, rfl⟩

theorem ErrorCode.code_ne_zero (e : ErrorCode) : e.code ≠ 0 := by cases e <;> decide

theorem failed_complete (e : ErrorCode) (s : State) : Failed e (complete e.code s) :=
  ⟨rfl, rfl, bne_iff_ne.mpr e.code_ne_zero, rfl, rfl⟩

section
variable {i : Instr} {s u : State} (hi : isUtility i = true)
include hi

/-- A utility command that ends in an error, with the results still cleared. -/
theorem exec_error_end {e : ErrorCode} (h : exec i s = raise e u) (hresults : ResultsAre u 0 0 0) :
    ∃ t, exec i s = .next t ∧ Failed e t ∧ UtilityFrame s t ∧ t.gen = u.gen ∧ ResultsAre t 0 0 0 :=
  ⟨complete e.code u, h, failed_complete e u, utilityFrame_of_exec hi h, rfl, hresults⟩

/-- A utility command that ends in an error before it changes anything but the results. -/
theorem exec_check_end {e : ErrorCode} (h : exec i s = raise e (clearResults s)) :
    ∃ t, exec i s = .next t ∧ Failed e t ∧ UtilityFrame s t ∧ t.gen = s.gen ∧ ResultsAre t 0 0 0 :=
  exec_error_end (u := clearResults s) hi h ⟨rfl, rfl, rfl⟩

/-- A utility command that ends with one number in RES0. -/
theorem exec_nat_end {v : Nat} (h : exec i s = succeed (setResults (natBits64 v) 0 0 u)) :
    ∃ t, exec i s = .next t ∧ Succeeded t ∧ UtilityFrame s t ∧ t.gen = u.gen ∧ ResultsAre t (natBits64 v) 0 0 :=
  ⟨_, h, succeeded_complete _, utilityFrame_of_exec hi h, rfl, rfl, rfl, rfl⟩

/-- A utility command that ends with the answer of a core function, which is one number or an error. -/
theorem exec_answer_end {r : Except ErrorCode Nat} (h : exec i s = finishNat r u) (hresults : ResultsAre u 0 0 0) :
    ∃ t, exec i s = .next t ∧ UtilityFrame s t ∧ t.gen = u.gen ∧
      (∀ e, r = .error e → Failed e t ∧ ResultsAre t 0 0 0) ∧
      (∀ v, r = .ok v → Succeeded t ∧ ResultsAre t (natBits64 v) 0 0) := by
  cases r with
  | error e =>
    obtain ⟨t, hexec, hflags, hframe, hgen, hres⟩ := exec_error_end hi h hresults
    refine ⟨t, hexec, hframe, hgen, ?_, fun _ => (nomatch ·)⟩
    rintro _ ⟨⟩
    exact ⟨hflags, hres⟩
  | ok v =>
    obtain ⟨t, hexec, hflags, hframe, hgen, hres⟩ := exec_nat_end hi h
    refine ⟨t, hexec, hframe, hgen, fun _ => (nomatch ·), ?_⟩
    rintro _ ⟨⟩
    exact ⟨hflags, hres⟩

end

end Sys2Proof.Machine
end

section
/-! The power-of-two test (41_number_theory.md R134, R135): the bit test of a signed word, and the command that makes
it. -/

namespace Sys2Proof.Machine

theorem isPow2Int_natCast (n : Nat) : isPow2Int n = isPow2 n := by
  simp [isPow2Int, isPow2]

theorem isPow2Int_iff (x : Int) : isPow2Int x = true ↔ ∃ k : Nat, 1 ≤ k ∧ x = 2 ^ k := by
  rcases lt_or_ge x 0 with hneg | hnonneg
  · have hnot : isPow2Int x = false := by simp [isPow2Int, show ¬ 1 < x by omega]
    simp only [hnot, Bool.false_eq_true, false_iff, not_exists, not_and]
    rintro k - rfl
    exact absurd hneg (not_lt.mpr (by positivity))
  · lift x to Nat using hnonneg
    rw [isPow2Int_natCast, isPow2_iff]
    norm_cast

/-- In the signed range the exponent is at most 62 (41_number_theory.md R134). -/
theorem isPow2Int_iff_of_lt {x : Int} (hx : x < 2 ^ 63) :
    isPow2Int x = true ↔ ∃ k : Nat, 1 ≤ k ∧ k ≤ 62 ∧ x = 2 ^ k := by
  rw [isPow2Int_iff]
  constructor
  · rintro ⟨k, hk, rfl⟩
    have hlt : k < 63 := (pow_lt_pow_iff_right₀ (by norm_num : (1 : Int) < 2)).mp hx
    exact ⟨k, hk, by omega, rfl⟩
  · rintro ⟨k, hk, -, hxk⟩
    exact ⟨k, hk, hxk⟩

/-- The words of two numbers below 2^64 have no common bit exactly when the numbers have none. -/
theorem natBits64_and_eq_zero_iff {m n : Nat} (hm : m < 2 ^ 64) (hn : n < 2 ^ 64) :
    natBits64 m &&& natBits64 n = 0 ↔ m &&& n = 0 := by
  rw [← BitVec.toNat_inj, BitVec.toNat_and]
  change uint (natBits64 m) &&& uint (natBits64 n) = 0 ↔ _
  rw [uint_natBits64 hm, uint_natBits64 hn]

/-- On the two's-complement patterns the bit test is the one on natural numbers, because x > 1. -/
theorem isPow2Int_iff_bits {x : Int} (hx : x < 2 ^ 63) :
    isPow2Int x = true ↔ 1 < x ∧ bits64 x &&& bits64 (x - 1) = 0 := by
  rcases le_or_gt x 1 with hle | hgt
  · simp [isPow2Int, not_lt.mpr hle]
  · lift x to Nat using by omega
    have hpred : (x : Int) - 1 = (x - 1 : Nat) := by omega
    rw [isPow2Int_natCast, hpred, bits64_natCast, bits64_natCast, natBits64_and_eq_zero_iff (by omega)
      (by omega)]
    simp [isPow2]

/-- Settles O25: the bit test is read on natural numbers, where the powers of two are known, and x < 2^63 bounds the
exponent. -/
theorem isPow2Exact : Obligations.IsPow2Exact := by
  intro x _ hx
  exact ⟨isPow2Int_iff_bits hx, isPow2Int_iff_of_lt hx⟩

theorem exec_ispow2 (s : State) :
    exec .ispow2 s = succeed (setResults (natBits64 (isPow2Int (sint s.opa)).toNat) 0 0 (clearResults s)) := rfl

/-- Settles O26: the operand is below 2^63, so the test's verdict is the one of R134. -/
theorem ispow2Decides : Obligations.Ispow2Decides := by
  intro s
  obtain ⟨t, hexec, hflags, hframe, hgen, hresults⟩ := exec_nat_end rfl (exec_ispow2 s)
  refine ⟨t, hexec, hflags, hframe, hgen, fun h => ?_, fun h => ?_⟩
  · rwa [(isPow2Int_iff_of_lt (sint_lt _)).mpr h] at hresults
  · rwa [Bool.eq_false_iff.mpr (mt (isPow2Int_iff_of_lt (sint_lt _)).mp h)] at hresults

end Sys2Proof.Machine
end

section
/-! Extended Euclid (41_number_theory.md R128, R129): the loop as iterated turns on the row of its variables, what the
last row says, and the command. -/

namespace Sys2Proof.Machine

/-! ### The turns of the loop -/

/-- One turn of the loop of EgcdCore (41_number_theory.md R128). -/
def EgcdRow.turn (w : EgcdRow) : EgcdRow :=
  ⟨w.r1, w.r0 - w.r0 / w.r1 * w.r1, w.s1, w.s0 - ((w.r0 / w.r1 : Nat) : Int) * w.s1, w.t1,
    w.t0 - ((w.r0 / w.r1 : Nat) : Int) * w.t1⟩

/-- The row after `i` turns. -/
def EgcdRow.after (w : EgcdRow) (i : Nat) : EgcdRow := EgcdRow.turn^[i] w

theorem EgcdRow.after_succ (w : EgcdRow) (i : Nat) : w.after (i + 1) = (w.after i).turn :=
  Function.iterate_succ_apply' ..

theorem EgcdRow.turn_r1 (w : EgcdRow) : w.turn.r1 = w.r0 % w.r1 := by
  simp only [turn, Nat.mod_eq_sub_div_mul]

theorem egcdLoop_of_r1_eq_zero {w : EgcdRow} (h : w.r1 = 0) (fuel : Nat) : egcdLoop fuel w = w := by
  cases fuel with
  | zero => rfl
  | succ fuel => simp only [egcdLoop, h, if_true]

theorem egcdLoop_succ {w : EgcdRow} (h : w.r1 ≠ 0) (fuel : Nat) : egcdLoop (fuel + 1) w = egcdLoop fuel w.turn := by
  simp only [egcdLoop, h, if_false]
  rfl

/-- With more fuel than the second remainder, which falls on every turn, the loop ends because that remainder is 0. -/
theorem exists_egcdLoop_eq_after : ∀ (fuel : Nat) (w : EgcdRow), w.r1 < fuel →
    ∃ n, egcdLoop fuel w = w.after n ∧ (w.after n).r1 = 0 ∧ ∀ i < n, (w.after i).r1 ≠ 0
  | 0, _, hfuel => absurd hfuel (Nat.not_lt_zero _)
  | fuel + 1, w, hfuel => by
    by_cases hzero : w.r1 = 0
    · exact ⟨0, egcdLoop_of_r1_eq_zero hzero _, hzero, fun i hi => absurd hi (Nat.not_lt_zero i)⟩
    · have hfalls : w.turn.r1 < w.r1 := w.turn_r1 ▸ Nat.mod_lt _ (Nat.pos_of_ne_zero hzero)
      obtain ⟨n, hloop, hlast, hbefore⟩ := exists_egcdLoop_eq_after fuel w.turn (by omega)
      refine ⟨n + 1, (egcdLoop_succ hzero fuel).trans hloop, hlast, fun i hi => ?_⟩
      cases i with
      | zero => exact hzero
      | succ i => exact hbefore i (by omega)

/-- What every turn that the loop makes keeps, the row after the last one has. -/
theorem EgcdRow.after_induction {P : EgcdRow → Prop} (hturn : ∀ w : EgcdRow, w.r1 ≠ 0 → P w → P w.turn) {w : EgcdRow}
    (hw : P w) : ∀ n, (∀ i < n, (w.after i).r1 ≠ 0) → P (w.after n)
  | 0, _ => hw
  | n + 1, hbefore => by
    rw [after_succ]
    exact hturn _ (hbefore n n.lt_succ_self)
      (after_induction hturn hw n fun i hi => hbefore i (Nat.lt_succ_of_lt hi))

/-! ### The greatest common divisor and the size of the coefficients -/

theorem EgcdRow.turn_gcd (w : EgcdRow) : Nat.gcd w.turn.r0 w.turn.r1 = Nat.gcd w.r0 w.r1 := by
  rw [turn_r1, Nat.gcd_comm, Nat.gcd_comm w.r0]
  exact (Nat.gcd_rec w.r1 w.r0).symm

/-- One pair of coefficients (c0, c1) beside the remainders (r0, r1): the signs differ, neither is above max(1, N), and
the cross sum is N, the operand whose cofactors they are. -/
structure CofactorBound (N r0 r1 : Nat) (c0 c1 : Int) : Prop where
  signs : c0 * c1 ≤ 0
  fst_le : |c0| ≤ max 1 (N : Int)
  snd_le : |c1| ≤ max 1 (N : Int)
  cross : |c0| * r1 + |c1| * r0 = N

/-- Of numbers with opposite signs, subtracting a multiple adds the absolute values. -/
theorem abs_sub_mul_of_mul_nonpos {c0 c1 : Int} (h : c0 * c1 ≤ 0) (q : Nat) : |c0 - q * c1| = |c0| + q * |c1| := by
  have hsplit : |c0 + -(q * c1)| = |c0| + |-(q * c1)| := by
    rw [abs_add_eq_add_abs_iff]
    rcases mul_nonpos_iff.mp h with ⟨h0, h1⟩ | ⟨h0, h1⟩
    · exact .inl ⟨h0, neg_nonneg.mpr (mul_nonpos_of_nonneg_of_nonpos q.cast_nonneg h1)⟩
    · exact .inr ⟨h0, neg_nonpos.mpr (mul_nonneg q.cast_nonneg h1)⟩
  rw [sub_eq_add_neg, hsplit, abs_neg, abs_mul, Nat.abs_cast]

/-- A turn keeps the bound: the cross sum is unchanged, and it is at least the new coefficient because r1 is not 0. -/
theorem CofactorBound.turn {N r0 r1 : Nat} {c0 c1 : Int} (h : CofactorBound N r0 r1 c0 c1) (hr1 : r1 ≠ 0) :
    CofactorBound N r1 (r0 % r1) c1 (c0 - (r0 / r1 : Nat) * c1) := by
  have habs := abs_sub_mul_of_mul_nonpos h.signs (r0 / r1)
  have hcross : |c1| * (r0 % r1 : Nat) + |c0 - (r0 / r1 : Nat) * c1| * r1 = N := by
    have hdiv : (r0 : Int) = r1 * (r0 / r1 : Nat) + (r0 % r1 : Nat) := by exact_mod_cast (Nat.div_add_mod r0 r1).symm
    rw [habs, ← h.cross]
    conv_rhs => rw [hdiv]
    ring
  refine ⟨?_, h.snd_le, ?_, hcross⟩
  · calc c1 * (c0 - (r0 / r1 : Nat) * c1) = c0 * c1 - (r0 / r1 : Nat) * (c1 * c1) := by ring
      _ ≤ 0 := sub_nonpos.mpr (h.signs.trans (mul_nonneg (Nat.cast_nonneg _) (mul_self_nonneg c1)))
  · have hone : (1 : Int) ≤ r1 := by exact_mod_cast Nat.one_le_iff_ne_zero.mpr hr1
    have hother : 0 ≤ |c1| * (r0 % r1 : Nat) := mul_nonneg (abs_nonneg _) (Nat.cast_nonneg _)
    exact le_max_of_le_right (by nlinarith [abs_nonneg (c0 - (r0 / r1 : Nat) * c1)])

/-- Both pairs of coefficients of a row are bounded, for the operands a and b. -/
def EgcdRow.Bounded (a b : Nat) (w : EgcdRow) : Prop :=
  CofactorBound b w.r0 w.r1 w.s0 w.s1 ∧ CofactorBound a w.r0 w.r1 w.t0 w.t1

theorem EgcdRow.Bounded.turn {a b : Nat} {w : EgcdRow} (h : w.Bounded a b) (hr1 : w.r1 ≠ 0) : w.turn.Bounded a b := by
  obtain ⟨hs, ht⟩ := h
  simp only [Bounded, turn_r1]
  exact ⟨hs.turn hr1, ht.turn hr1⟩

/-! ### What EgcdCore answers -/

/-- The row EgcdCore starts with. -/
def egcdStart (a b : Nat) : EgcdRow := ⟨a, b, 1, 0, 0, 1⟩

theorem egcdStart_bounded (a b : Nat) : (egcdStart a b).Bounded a b :=
  ⟨by constructor <;> simp [egcdStart], by constructor <;> simp [egcdStart]⟩

/-- EgcdCore answers the first row with second remainder 0 (41_number_theory.md R128). -/
theorem exists_egcdCore_eq_after (a b : Nat) :
    ∃ n, let w := (egcdStart a b).after n
      egcdCore a b = (w.r0, w.s0, w.t0) ∧ w.r1 = 0 ∧ ∀ i < n, ((egcdStart a b).after i).r1 ≠ 0 := by
  obtain ⟨n, hloop, hlast, hbefore⟩ := exists_egcdLoop_eq_after (b + 1) (egcdStart a b) (Nat.lt_succ_self b)
  refine ⟨n, ?_, hlast, hbefore⟩
  rw [← hloop]
  rfl

theorem egcdCore_gcd (a b : Nat) : (egcdCore a b).1 = Nat.gcd a b := by
  obtain ⟨n, hcore, hlast, hbefore⟩ := exists_egcdCore_eq_after a b
  have hgcd : Nat.gcd ((egcdStart a b).after n).r0 ((egcdStart a b).after n).r1 = Nat.gcd a b :=
    EgcdRow.after_induction (P := fun w => Nat.gcd w.r0 w.r1 = Nat.gcd a b)
      (fun w _ hw => w.turn_gcd.trans hw) rfl n hbefore
  rw [hcore, ← hgcd, hlast, Nat.gcd_zero_right]

/-- The coefficients of EgcdCore are within the bounds of R128. -/
theorem egcdCore_abs_le (a b : Nat) : |(egcdCore a b).2.1| ≤ max 1 (b : Int) ∧ |(egcdCore a b).2.2| ≤ max 1 (a : Int) := by
  obtain ⟨n, hcore, -, hbefore⟩ := exists_egcdCore_eq_after a b
  obtain ⟨hs, ht⟩ := EgcdRow.after_induction (fun _ hr1 hw => hw.turn hr1) (egcdStart_bounded a b) n hbefore
  rw [hcore]
  exact ⟨hs.fst_le, ht.fst_le⟩

/-- The rows of R128 as three sequences: EgcdCore answers the last ones with a remainder that is not 0, or the first. -/
theorem egcdCore_rows (a b : Nat) : ∃ (n : Nat) (r x y : Nat → Int),
    r 0 = a ∧ r 1 = b ∧ x 0 = 1 ∧ x 1 = 0 ∧ y 0 = 0 ∧ y 1 = 1 ∧
    (∀ i < n, r (i + 1) ≠ 0 ∧ r (i + 2) = r i - r i / r (i + 1) * r (i + 1) ∧
      x (i + 2) = x i - r i / r (i + 1) * x (i + 1) ∧ y (i + 2) = y i - r i / r (i + 1) * y (i + 1)) ∧
    r (n + 1) = 0 ∧ ((egcdCore a b).1 : Int) = r n ∧ (egcdCore a b).2.1 = x n ∧ (egcdCore a b).2.2 = y n := by
  obtain ⟨n, hcore, hlast, hbefore⟩ := exists_egcdCore_eq_after a b
  refine ⟨n, fun i => ((egcdStart a b).after i).r0, fun i => ((egcdStart a b).after i).s0,
    fun i => ((egcdStart a b).after i).t0, rfl, rfl, rfl, rfl, rfl, rfl, fun i hi => ?_, ?_, ?_⟩
  · have hr1 := hbefore i hi
    simp only [EgcdRow.after_succ]
    generalize (egcdStart a b).after i = w at hr1 ⊢
    have hle : w.r0 / w.r1 * w.r1 ≤ w.r0 := Nat.div_mul_le_self _ _
    simpa [EgcdRow.turn, Nat.cast_sub hle] using hr1
  · simp only [EgcdRow.after_succ]
    exact_mod_cast hlast
  · rw [hcore]
    exact ⟨rfl, rfl, rfl⟩

/-! ### The command -/

theorem exec_egcd_nonneg {s : State} {a b : Nat} (ha : sint s.opa = a) (hb : sint s.opb = b) :
    exec .egcd s = succeed (setResults (natBits64 (egcdCore a b).1) (bits64 (egcdCore a b).2.1)
      (bits64 (egcdCore a b).2.2) (clearResults s)) := by
  change execEgcd s = _
  rw [execEgcd, ha, hb]
  exact if_neg (by omega)

theorem exec_egcd_negative {s : State} (h : sint s.opa < 0 ∨ sint s.opb < 0) :
    exec .egcd s = raise .operandRange (clearResults s) := if_pos h

theorem gcd_le_add (a b : Nat) : Nat.gcd a b ≤ a + b := by
  rcases a.eq_zero_or_pos with rfl | ha
  · simp
  · exact (Nat.gcd_le_left b ha).trans (Nat.le_add_right a b)

/-- A coefficient of an operand below 2^63 is read back from its word. -/
theorem sint_bits64_of_abs_le {x : Int} {n : Nat} (hn : (n : Int) < 2 ^ 63) (hx : |x| ≤ max 1 (n : Int)) :
    sint (bits64 x) = x := by
  obtain ⟨hlo, hhi⟩ := abs_le.mp hx
  exact sint_bits64 (by omega) (by omega)

/-- Settles O21: the loop keeps the gcd, the Bézout identity and the bound of the coefficients, which therefore fit in
their words; its rows are the sequences. -/
theorem egcdGivesBezout : Obligations.EgcdGivesBezout := by
  intro s
  refine ⟨fun ha hb => ?_, fun hneg => ?_⟩
  · obtain ⟨a, ha⟩ := Int.eq_ofNat_of_zero_le ha
    obtain ⟨b, hb⟩ := Int.eq_ofNat_of_zero_le hb
    have ha63 : (a : Int) < 2 ^ 63 := ha ▸ sint_lt s.opa
    have hb63 : (b : Int) < 2 ^ 63 := hb ▸ sint_lt s.opb
    have hexec := exec_egcd_nonneg ha hb
    obtain ⟨hx, hy⟩ := egcdCore_abs_le a b
    have hg : (egcdCore a b).1 < 2 ^ 64 := by
      have hle := gcd_le_add a b
      rw [egcdCore_gcd]
      omega
    refine ⟨_, hexec, succeeded_complete _, utilityFrame_of_exec rfl hexec, gen_of_exec rfl hexec, ?_⟩
    simp only [complete_res0, complete_res1, complete_res2, setResults_res0, setResults_res1, setResults_res2,
      uint_natBits64 hg, sint_bits64_of_abs_le hb63 hx, sint_bits64_of_abs_le ha63 hy, ha, hb]
    refine ⟨egcdCore_gcd a b, ?_, hx, hy, egcdCore_rows a b⟩
    rw [egcdCore_bezout]
    ring
  · exact exec_check_end rfl (exec_egcd_negative hneg)

end Sys2Proof.Machine
end

section
/-! The modular inverse and the power (41_number_theory.md R130 to R133): the inverse of any integer modulo any m from 1,
and the two commands that answer it or a power. -/

namespace Sys2Proof.Machine

/-! ### The inverse -/

theorem modInvCore_eq (a : Int) (m : Nat) : modInvCore a m =
    if (egcdCore (a % m).toNat m).1 ≠ 1 then .error .invalidGcd
    else .ok ((egcdCore (a % m).toNat m).2.1 % m).toNat := rfl

/-- The loop runs on the residue of a, which has the gcd of a with m. -/
theorem egcdCore_residue_gcd (a : Int) {m : Nat} (hm : 0 < m) : (egcdCore (a % m).toNat m).1 = Int.gcd a m := by
  have hres : ((a % m).toNat : Int) = a % m := Int.toNat_of_nonneg (Int.emod_nonneg a (by omega))
  rw [egcdCore_gcd, ← Int.gcd_natCast_natCast, hres]
  exact Int.gcd_emod a m

theorem modInvCore_of_gcd_ne_one {a : Int} {m : Nat} (hm : 0 < m) (h : Int.gcd a m ≠ 1) :
    modInvCore a m = .error .invalidGcd := by
  rw [modInvCore_eq, egcdCore_residue_gcd a hm, if_pos h]

theorem modInvCore_of_gcd_eq_one {a : Int} {m : Nat} (hm : 0 < m) (h : Int.gcd a m = 1) :
    ∃ r : Nat, modInvCore a m = .ok r ∧ r < m ∧ a * r % m = 1 % m := by
  have hg := (egcdCore_residue_gcd a hm).trans h
  have hbez := egcdCore_bezout (a % m).toNat m
  rw [hg, Int.toNat_of_nonneg (Int.emod_nonneg a (by omega))] at hbez
  refine ⟨_, by rw [modInvCore_eq, if_neg (not_not.mpr hg)], ?_, ?_⟩
  all_goals generalize (egcdCore (a % m).toNat m).2.1 = x at hbez ⊢
  · have hlt : x % (m : Int) < m := Int.emod_lt_of_pos _ (by omega)
    omega
  · rw [Int.toNat_of_nonneg (Int.emod_nonneg x (by omega))]
    calc a * (x % m) % m = x * (a % m) % m := by simp [Int.mul_emod, mul_comm]
      _ = 1 % m := by rw [← Int.add_mul_emod_self_right, ← hbez]; rfl

section
variable {i : Instr} {s : State} {a : Int} {m : Nat} (hi : isUtility i = true) (hm : 0 < m)
  (h : exec i s = finishNat (modInvCore a m) (clearResults s))
include hi hm h

/-- A command that ends by answering the inverse of a number coprime to the modulus. -/
theorem exec_inverse_end (hm63 : (m : Int) < 2 ^ 63) (hgcd : Int.gcd a m = 1) :
    ∃ t, exec i s = .next t ∧ Succeeded t ∧ UtilityFrame s t ∧ t.gen = s.gen ∧
      (uint t.res0 : Int) < m ∧ a * uint t.res0 % m = 1 % m ∧ t.res1 = 0 ∧ t.res2 = 0 := by
  obtain ⟨r, hr, hlt, hinv⟩ := modInvCore_of_gcd_eq_one hm hgcd
  rw [hr] at h
  obtain ⟨t, hexec, hflags, hframe, hgen, hres0, hres⟩ := exec_nat_end hi h
  have hword : uint t.res0 = r := by rw [hres0, uint_natBits64 (by omega)]
  exact ⟨t, hexec, hflags, hframe, hgen, by omega, by rw [hword]; exact hinv, hres⟩

/-- A command that ends by looking for the inverse of a number that has none. -/
theorem exec_no_inverse_end (hgcd : Int.gcd a m ≠ 1) :
    ∃ t, exec i s = .next t ∧ Failed .invalidGcd t ∧ UtilityFrame s t ∧ t.gen = s.gen ∧ ResultsAre t 0 0 0 := by
  rw [modInvCore_of_gcd_ne_one hm hgcd] at h
  exact exec_check_end hi h

end

/-! ### MODINV -/

theorem exec_modinv_nonpos {s : State} (h : sint s.opb ≤ 0) :
    exec .modinv s = raise .invalidModulus (clearResults s) := if_pos h

theorem exec_modinv_pos {s : State} (h : 0 < sint s.opb) :
    exec .modinv s = finishNat (modInvCore (sint s.opa) (sint s.opb).toNat) (clearResults s) := if_neg (not_le.mpr h)

/-- Settles O22: the inverse of R130 for a positive modulus, and the check before it. -/
theorem modinvInverts : Obligations.ModinvInverts := by
  intro s
  refine ⟨fun hpos hgcd => ?_, fun hpos hgcd => ?_, fun hnonpos => ?_⟩
  case refine_3 => exact exec_check_end rfl (exec_modinv_nonpos hnonpos)
  all_goals
    have hexec := exec_modinv_pos hpos
    have hm63 := sint_lt s.opb
    lift sint s.opb to Nat using hpos.le with m
  · exact exec_inverse_end rfl (by omega) hexec hm63 hgcd
  · exact exec_no_inverse_end rfl (by omega) hexec hgcd

/-! ### POW -/

section
variable {s : State}

theorem exec_pow_badExponent (h : sint s.opb < -1) : exec .pow s = raise .invalidExponent (clearResults s) := if_pos h

theorem exec_pow_badModulus (he : -1 ≤ sint s.opb) (hm : sint s.opc ≤ 0) :
    exec .pow s = raise .invalidModulus (clearResults s) := (if_neg (not_lt.mpr he)).trans (if_pos hm)

theorem exec_pow_inverse (he : sint s.opb = -1) (hm : 0 < sint s.opc) :
    exec .pow s = finishNat (modInvCore (sint s.opa) (sint s.opc).toNat) (clearResults s) :=
  (if_neg (by omega)).trans ((if_neg (not_le.mpr hm)).trans (if_pos he))

theorem exec_pow_power (he : 0 ≤ sint s.opb) (hm : 0 < sint s.opc) :
    exec .pow s = finishNat (.ok (powCore (sint s.opa) (sint s.opb).toNat (sint s.opc).toNat)) (clearResults s) :=
  (if_neg (by omega)).trans ((if_neg (not_le.mpr hm)).trans (if_neg (by omega)))

end

/-- PowCore of any integer base is the power modulo m, as an integer (41_number_theory.md R132). -/
theorem powCore_cast (b : Int) (e : Nat) {m : Nat} (hm : 0 < m) : (powCore b e m : Int) = b ^ e % m := by
  rw [powCore_eq b e hm, Int.natCast_mod, Nat.cast_pow, Int.toNat_of_nonneg (Int.emod_nonneg b (by omega))]
  exact (Int.mod_modEq b m).pow e

/-- Settles O23: PowCore computes the power, and its residue fits in the result word. -/
theorem powComputesPower : Obligations.PowComputesPower := by
  intro s he hm
  have hexec := exec_pow_power he hm
  have hm63 := sint_lt s.opc
  lift sint s.opc to Nat using hm.le with m
  have hmpos : 0 < m := by omega
  obtain ⟨t, hexec, hflags, hframe, hgen, hres0, hres⟩ := exec_nat_end rfl hexec
  have hlt := powCore_lt (sint s.opa) (sint s.opb).toNat hmpos
  refine ⟨t, hexec, hflags, hframe, hgen, ?_, hres⟩
  rw [hres0, Int.toNat_natCast, uint_natBits64 (by omega), powCore_cast _ _ hmpos]

/-- Settles O24: the checks of R133 in their order, then the inverse of R130. -/
theorem powInverseAndErrors : Obligations.PowInverseAndErrors := by
  intro s
  refine ⟨fun he hm hgcd => ?_, fun he hm hgcd => ?_, fun he => ?_, fun he hm => ?_⟩
  case refine_3 =>
    obtain ⟨t, hexec, hflags, hframe, -, hresults⟩ := exec_check_end rfl (exec_pow_badExponent he)
    exact ⟨t, hexec, hflags, hframe, hresults⟩
  case refine_4 =>
    obtain ⟨t, hexec, hflags, hframe, -, hresults⟩ := exec_check_end rfl (exec_pow_badModulus he hm)
    exact ⟨t, hexec, hflags, hframe, hresults⟩
  all_goals
    have hexec := exec_pow_inverse he hm
    have hm63 := sint_lt s.opc
    lift sint s.opc to Nat using hm.le with m
  · obtain ⟨t, hexec, hflags, hframe, -, hinverse⟩ := exec_inverse_end rfl (by omega) hexec hm63 hgcd
    exact ⟨t, hexec, hflags, hframe, hinverse⟩
  · obtain ⟨t, hexec, hflags, hframe, -, hresults⟩ := exec_no_inverse_end rfl (by omega) hexec hgcd
    exact ⟨t, hexec, hflags, hframe, hresults⟩

end Sys2Proof.Machine
end

section
/-! The trials of a primality test (41_number_theory.md R121, R122, R136 item 4): a trial characterised by powers, why a
prime passes every one, and ISPRIME. Throughout, x - 1 = d·2^k with d odd. -/

namespace Sys2Proof.Machine

/-! ### Powers modulo x that are 1 or -1 -/

theorem natCast_eq_one_iff {m : Nat} (hm : 1 < m) (n : Nat) : (n : ZMod m) = 1 ↔ n % m = 1 := by
  rw [← Nat.cast_one, ZMod.natCast_eq_natCast_iff', Nat.mod_eq_of_lt hm]

theorem natCast_eq_neg_one_iff {m : Nat} (hm : 0 < m) (n : Nat) : (n : ZMod m) = -1 ↔ n % m = m - 1 := by
  have hpred : ((m - 1 : Nat) : ZMod m) = -1 := by rw [Nat.cast_pred hm, ZMod.natCast_self, zero_sub]
  rw [← hpred, ZMod.natCast_eq_natCast_iff', Nat.mod_eq_of_lt (Nat.sub_lt hm one_pos)]

/-- Where the only square roots of 1 are 1 and -1, repeated squaring reaches 1 from 1 or through -1. -/
theorem eq_one_or_exists_pow_eq_neg_one {R : Type*} [CommRing R] [NoZeroDivisors R] (y : R) :
    ∀ k, y ^ 2 ^ k = 1 → y = 1 ∨ ∃ i < k, y ^ 2 ^ i = -1
  | 0, h => .inl (by simpa using h)
  | k + 1, h => by
    have hsquare : y ^ 2 ^ k * y ^ 2 ^ k = 1 := by rw [← pow_two, ← pow_mul, ← pow_succ, h]
    rcases mul_self_eq_one_iff.mp hsquare with hone | hneg
    · rcases eq_one_or_exists_pow_eq_neg_one y k hone with hy | ⟨i, hi, hy⟩
      · exact .inl hy
      · exact .inr ⟨i, Nat.lt_succ_of_lt hi, hy⟩
    · exact .inr ⟨k, Nat.lt_succ_self k, hneg⟩

/-- Fermat's theorem makes a prime pass with every witness that it does not divide. -/
theorem prime_pow_mod_eq {p a d k : Nat} (hp : p.Prime) (ha : ¬ p ∣ a) (hpdk : p - 1 = d * 2 ^ k) :
    a ^ d % p = 1 ∨ ∃ i < k, a ^ (d * 2 ^ i) % p = p - 1 := by
  have := Fact.mk hp
  have hfermat : ((a : ZMod p) ^ d) ^ 2 ^ k = 1 := by
    rw [← pow_mul, ← hpdk]
    exact ZMod.pow_card_sub_one_eq_one (mt (ZMod.natCast_eq_zero_iff a p).mp ha)
  rcases eq_one_or_exists_pow_eq_neg_one _ k hfermat with hone | ⟨i, hi, hneg⟩
  · exact .inl ((natCast_eq_one_iff hp.one_lt _).mp (by exact_mod_cast hone))
  · rw [← pow_mul] at hneg
    exact .inr ⟨i, hi, (natCast_eq_neg_one_iff hp.pos _).mp (by exact_mod_cast hneg)⟩

theorem modEq_one_of_prime_factors {m : Nat} :
    ∀ x : Nat, x ≠ 0 → (∀ p, p.Prime → p ∣ x → p ≡ 1 [MOD m]) → x ≡ 1 [MOD m] := by
  intro x
  induction x using induction_on_primes with
  | zero => exact fun hzero _ => absurd rfl hzero
  | one => exact fun _ _ => Nat.ModEq.refl 1
  | prime_mul p x hp ih =>
    intro hne hfactors
    exact (hfactors p hp (dvd_mul_right p x)).mul
      (ih (right_ne_zero_of_mul hne) fun q hq hqx => hfactors q hq (hqx.mul_left p))

/-- A prime p modulo which some b^(2^k) is -1 is 1 modulo 2^(k + 1), because b has order 2^(k + 1). -/
theorem prime_modEq_one_of_pow_eq_neg_one {p k : Nat} (hp : p.Prime) (hp2 : p ≠ 2) {b : ZMod p} (hb : b ^ 2 ^ k = -1) :
    p ≡ 1 [MOD 2 ^ (k + 1)] := by
  have := Fact.mk hp
  have := Fact.mk (lt_of_le_of_ne hp.two_le hp2.symm)
  have hone : b ^ 2 ^ (k + 1) = 1 := by rw [pow_succ, pow_mul, hb, neg_one_sq]
  have horder : orderOf b = 2 ^ (k + 1) := orderOf_eq_prime_pow (hb ▸ ZMod.neg_one_ne_one) hone
  have hb0 : b ≠ 0 := by
    rintro rfl
    simp at hone
  have hdvd : 2 ^ (k + 1) ∣ p - 1 := horder ▸ ZMod.orderOf_dvd_card_sub_one hb0
  exact ((Nat.modEq_iff_dvd' hp.one_le).mpr hdvd).symm

/-- No power to x - 1 is -1 modulo an odd x: every prime factor of x, and so x, would be 1 modulo 2^(k + 1). This is
why the end of the squaring loop at the exponent x - 1 never makes a trial pass (90_conflicts.md C8). -/
theorem pow_pred_mod_ne_pred {x d k : Nat} (hx : 1 < x) (hodd : x % 2 = 1) (hxdk : x - 1 = d * 2 ^ k) (hd : d % 2 = 1)
    (a : Nat) : a ^ (d * 2 ^ k) % x ≠ x - 1 := by
  intro hneg
  have hfactor : ∀ p, p.Prime → p ∣ x → p ≡ 1 [MOD 2 ^ (k + 1)] := fun p hp hpx => by
    have hp2 : p ≠ 2 := by
      rintro rfl
      omega
    have hcast : ((a ^ (d * 2 ^ k) : Nat) : ZMod x) = -1 := (natCast_eq_neg_one_iff (by omega) _).mpr hneg
    have hcastp := congrArg (ZMod.castHom hpx (ZMod p)) hcast
    rw [map_natCast, map_neg, map_one, Nat.cast_pow, pow_mul] at hcastp
    exact prime_modEq_one_of_pow_eq_neg_one hp hp2 hcastp
  have hdvd : 2 ^ (k + 1) ∣ d * 2 ^ k :=
    hxdk ▸ (Nat.modEq_iff_dvd' hx.le).mp (modEq_one_of_prime_factors x (by omega) hfactor).symm
  rw [pow_succ, mul_comm] at hdvd
  have htwo : 2 ∣ d := Nat.dvd_of_mul_dvd_mul_right (by positivity) hdvd
  omega

/-! ### The loops of a trial -/

theorem oddPart_mul_two_pow {d : Nat} (hd : d % 2 = 1) : ∀ k fuel, k ≤ fuel → oddPart fuel (d * 2 ^ k) = d
  | 0, 0, _ => by simp [oddPart]
  | 0, fuel + 1, _ => by simp [oddPart, hd]
  | k + 1, fuel + 1, h => by
    have heven : d * 2 ^ (k + 1) % 2 = 0 := by rw [pow_succ, ← mul_assoc, Nat.mul_mod_left]
    have hhalf : d * 2 ^ (k + 1) / 2 = d * 2 ^ k := by rw [pow_succ, ← mul_assoc, Nat.mul_div_cancel _ two_pos]
    rw [oddPart, if_pos heven, hhalf]
    exact oddPart_mul_two_pow hd k fuel (Nat.le_of_succ_le_succ h)

/-- Away from 1, -1 and the exponent x - 1 the loop squares the value and doubles the exponent. -/
theorem squareLoop_succ {x y e : Nat} (he : e ≠ x - 1) (hone : y ≠ 1) (hneg : y ≠ x - 1) (fuel : Nat) :
    squareLoop x (fuel + 1) y e = squareLoop x fuel (y * y % x) (2 * e) := by
  rw [squareLoop, if_pos ⟨he, hone, hneg⟩]

/-- At each of the three stopping conditions of R121 the loop answers what it holds, whatever the fuel. -/
theorem squareLoop_stop {x y e : Nat} (h : e = x - 1 ∨ y = 1 ∨ y = x - 1) (fuel : Nat) :
    squareLoop x fuel y e = (y, e) := by
  cases fuel with
  | zero => rfl
  | succ fuel => rw [squareLoop, if_neg (by tauto)]

/-- From an even exponent the loop ends with an even one. -/
theorem squareLoop_snd_even (x : Nat) : ∀ (fuel y e : Nat), e % 2 = 0 → (squareLoop x fuel y e).2 % 2 = 0
  | 0, _, _, he => he
  | fuel + 1, y, e, he => by
    rw [squareLoop]
    split
    · exact squareLoop_snd_even x fuel _ _ (by omega)
    · exact he

/-- After one squaring modulo x, `i` more are `i + 1` from the start. -/
theorem square_mod_pow_two_pow (x y i : Nat) : (y * y % x) ^ 2 ^ i % x = y ^ 2 ^ (i + 1) % x := by
  rw [← Nat.pow_mod, ← pow_two, ← pow_mul, pow_succ' 2 i]

/-- With the exponent `j` doublings below x - 1, the loop ends at x - 1 exactly when one of the squarings gives it. -/
theorem squareLoop_fst_eq_pred_iff {x : Nat} (hx : 2 < x) :
    ∀ (j fuel y e : Nat), j ≤ fuel → y < x → 0 < e → e * 2 ^ j = x - 1 →
      ((squareLoop x fuel y e).1 = x - 1 ↔ ∃ i ≤ j, y ^ 2 ^ i % x = x - 1)
  | 0, fuel, y, e, _, hy, _, hexp => by
    rw [squareLoop_stop (.inl (by simpa using hexp))]
    simp [Nat.mod_eq_of_lt hy]
  | j + 1, fuel + 1, y, e, hfuel, hy, he, hexp => by
    have hstart : y ^ 2 ^ 0 % x = y := by simp [Nat.mod_eq_of_lt hy]
    by_cases hneg : y = x - 1
    · rw [squareLoop_stop (.inr (.inr hneg))]
      exact ⟨fun _ => ⟨0, Nat.zero_le _, hstart.trans hneg⟩, fun _ => hneg⟩
    · by_cases hone : y = 1
      · rw [squareLoop_stop (.inr (.inl hone)), hone]
        simp only [one_pow, Nat.mod_eq_of_lt (show 1 < x by omega)]
        omega
      · have hbelow : e ≠ x - 1 := by
          have hdouble : e * 2 ^ (j + 1) = 2 * (e * 2 ^ j) := by ring
          have hle : e ≤ e * 2 ^ j := Nat.le_mul_of_pos_right e (by positivity)
          omega
        have hexp' : 2 * e * 2 ^ j = x - 1 := by rw [← hexp]; ring
        rw [squareLoop_succ hbelow hone hneg, squareLoop_fst_eq_pred_iff hx j fuel _ _ (Nat.le_of_succ_le_succ hfuel)
          (Nat.mod_lt _ (by omega)) (by omega) hexp']
        simp only [square_mod_pow_two_pow]
        constructor
        · rintro ⟨i, hi, h⟩
          exact ⟨i + 1, Nat.succ_le_succ hi, h⟩
        · rintro ⟨i, hi, h⟩
          cases i with
          | zero => exact absurd (hstart.symm.trans h) hneg
          | succ i => exact ⟨i, Nat.le_of_succ_le_succ hi, h⟩

theorem trialPasses_iff (x a : Nat) : trialPasses x a = true ↔
    (squareLoop x x (powCore a (oddPart (x - 1) (x - 1)) x) (oddPart (x - 1) (x - 1))).1 = x - 1 ∨
    (squareLoop x x (powCore a (oddPart (x - 1) (x - 1)) x) (oddPart (x - 1) (x - 1))).2 % 2 = 1 := by
  simp only [trialPasses, Bool.not_and, Bool.or_eq_true, Bool.not_eq_true', decide_eq_false_iff_not, not_not,
    Nat.mod_two_not_eq_zero]

/-! ### A trial by powers -/

section
variable {x d k : Nat} (h5 : 5 ≤ x) (hodd : x % 2 = 1) (hxdk : x - 1 = d * 2 ^ k) (hd : d % 2 = 1)
include h5 hodd hxdk hd

omit h5 in
/-- The loop ends with an odd exponent exactly when it makes no turn, which is when a^d is 1 or -1. -/
theorem squareLoop_snd_odd_iff (fuel y : Nat) : (squareLoop x (fuel + 1) y d).2 % 2 = 1 ↔ y = 1 ∨ y = x - 1 := by
  by_cases hstop : y = 1 ∨ y = x - 1
  · rw [squareLoop_stop (.inr hstop)]
    exact iff_of_true hd hstop
  · obtain ⟨hone, hneg⟩ := not_or.mp hstop
    rw [squareLoop_succ (by omega) hone hneg]
    have heven := squareLoop_snd_even x fuel (y * y % x) (2 * d) (Nat.mul_mod_right 2 d)
    omega

/-- The exponent is doubled k times, and k is above 0 and below x. -/
theorem exponent_bounds : 0 < k ∧ k < x := by
  have hk : k < 2 ^ k := Nat.lt_two_pow_self
  have hle : 2 ^ k ≤ d * 2 ^ k := Nat.le_mul_of_pos_left _ (by omega)
  refine ⟨Nat.pos_of_ne_zero ?_, by omega⟩
  rintro rfl
  omega

/-- A trial passes when a^d is 1, or the powers meet -1 before the exponent x - 1 (41_number_theory.md R121). -/
theorem trialPasses_iff_pow (a : Nat) :
    trialPasses x a = true ↔ a ^ d % x = 1 ∨ ∃ i < k, a ^ (d * 2 ^ i) % x = x - 1 := by
  obtain ⟨hk0, hkx⟩ := exponent_bounds h5 hodd hxdk hd
  have hpart : oddPart (x - 1) (x - 1) = d := by
    conv_lhs => rw [hxdk]
    exact oddPart_mul_two_pow hd k _ (by omega)
  have hpow : ∀ i, (a ^ d % x) ^ 2 ^ i % x = a ^ (d * 2 ^ i) % x := fun i => by rw [← Nat.pow_mod, ← pow_mul]
  have hsnd : (squareLoop x x (a ^ d % x) d).2 % 2 = 1 ↔ a ^ d % x = 1 ∨ a ^ d % x = x - 1 := by
    obtain ⟨fuel, rfl⟩ : ∃ fuel, x = fuel + 1 := ⟨x - 1, by omega⟩
    exact squareLoop_snd_odd_iff hodd hxdk hd fuel _
  rw [trialPasses_iff, hpart, powCore_natCast _ _ (by omega), hsnd,
    squareLoop_fst_eq_pred_iff (by omega) k x _ d hkx.le (Nat.mod_lt _ (by omega)) (by omega) hxdk.symm]
  simp only [hpow]
  constructor
  · rintro (⟨i, hi, h⟩ | hone | hneg)
    · have hik : i ≠ k := by
        rintro rfl
        exact pow_pred_mod_ne_pred (by omega) hodd hxdk hd a h
      exact .inr ⟨i, by omega, h⟩
    · exact .inl hone
    · exact .inr ⟨0, hk0, by simpa using hneg⟩
  · rintro (hone | ⟨i, hi, h⟩)
    · exact .inr (.inl hone)
    · exact .inl ⟨i, hi.le, h⟩

theorem trialPasses_one : trialPasses x 1 = true :=
  (trialPasses_iff_pow h5 hodd hxdk hd 1).mpr (.inl (by rw [one_pow, Nat.mod_eq_of_lt (by omega)]))

/-- The odd power of -1 is -1. -/
theorem trialPasses_pred : trialPasses x (x - 1) = true := by
  have hcast : (((x - 1) ^ (d * 2 ^ 0) : Nat) : ZMod x) = -1 := by
    rw [Nat.cast_pow, (natCast_eq_neg_one_iff (by omega) _).mpr (Nat.mod_eq_of_lt (by omega)), pow_zero, mul_one,
      (Nat.odd_iff.mpr hd).neg_one_pow]
  exact (trialPasses_iff_pow h5 hodd hxdk hd (x - 1)).mpr
    (.inr ⟨0, (exponent_bounds h5 hodd hxdk hd).1, (natCast_eq_neg_one_iff (by omega) _).mp hcast⟩)

end

/-- Every number from 2 on has the form of R121. -/
theorem exists_pred_eq_odd_mul {x : Nat} (hx : 2 ≤ x) : ∃ d k, x - 1 = d * 2 ^ k ∧ d % 2 = 1 := by
  obtain ⟨k, d, hd, hxdk⟩ := Nat.exists_eq_two_pow_mul_odd (show x - 1 ≠ 0 by omega)
  exact ⟨d, k, hxdk.trans (mul_comm _ _), Nat.odd_iff.mp hd⟩

/-- Settles O15: a trial is characterised by powers, and the odd power d of 1 is 1 and of -1 is -1. -/
theorem trivialWitnessesPass : Obligations.TrivialWitnessesPass := by
  refine ⟨fun x h5 hodd => ?_, fun x a d k h5 hodd _ _ hxdk hd => trialPasses_iff_pow h5 hodd hxdk hd a⟩
  obtain ⟨d, k, hxdk, hd⟩ := exists_pred_eq_odd_mul (show 2 ≤ x by omega)
  exact ⟨trialPasses_one h5 hodd hxdk hd, trialPasses_pred h5 hodd hxdk hd⟩

/-- A prime from 5 passes the trial of every witness that can be drawn (41_number_theory.md R136 item 4). -/
theorem prime_trialPasses {p a : Nat} (hp : p.Prime) (h5 : 5 ≤ p) (ha1 : 1 ≤ a) (ha : a ≤ p - 1) :
    trialPasses p a = true := by
  obtain ⟨d, k, hpdk, hd⟩ := exists_pred_eq_odd_mul hp.two_le
  have hodd : p % 2 = 1 := hp.eq_two_or_odd.resolve_left (by omega)
  have hndvd : ¬ p ∣ a := Nat.not_dvd_of_pos_of_lt ha1 (by omega)
  exact (trialPasses_iff_pow h5 hodd hpdk hd a).mpr (prime_pow_mod_eq hp hndvd hpdk)

/-! ### The test -/

section
variable (trials : Nat) (g : WitnessGen)

theorem isPrimeCore_plainlyComposite {x : Int} (h : PlainlyComposite x) : isPrimeCore trials x g = (false, g) := by
  rcases h with hle | ⟨h4, heven⟩
  · exact if_pos (by omega)
  · exact (if_neg (by omega)).trans ((if_neg (by omega)).trans (if_pos heven))

theorem isPrimeCore_two_or_three {x : Int} (h : x = 2 ∨ x = 3) : isPrimeCore trials x g = (true, g) :=
  (if_neg (by omega)).trans (if_pos h)

theorem isPrimeCore_odd {x : Nat} (h5 : 5 ≤ x) (hodd : x % 2 = 1) : isPrimeCore trials x g = trialLoop x trials g :=
  (if_neg (by omega)).trans ((if_neg (by omega)).trans (if_neg (by omega)))

end

/-- A run of trials has verdict 0 exactly when one of its witnesses fails. -/
theorem TrialRun.verdict_eq_false_iff {trials x : Nat} {g g' : WitnessGen} {verdict : Bool}
    (h : TrialRun trials x g verdict g') :
    verdict = false ↔ ∃ j < trials, trialPasses x (witnessAt g x j) = false := by
  rcases h with ⟨rfl, hpass, -⟩ | ⟨rfl, j, hj, hfail, -, -⟩
  · refine iff_of_false Bool.noConfusion ?_
    rintro ⟨j, hj, hfail⟩
    exact Bool.noConfusion ((hpass j hj).symm.trans hfail)
  · exact iff_of_true rfl ⟨j, hj, hfail⟩

/-- A run without a failing witness makes all its draws. -/
theorem TrialRun.gen_of_verdict {trials x : Nat} {g g' : WitnessGen} (h : TrialRun trials x g true g') :
    g' = genAfter g x trials := by
  rcases h with ⟨-, -, hg⟩ | ⟨hfalse, -⟩
  · exact hg
  · exact Bool.noConfusion hfalse

/-- A prime passes the test whatever is drawn (41_number_theory.md R136 item 4). -/
theorem isPrimeCore_prime (trials : Nat) (g : WitnessGen) {p : Nat} (hp : p.Prime) :
    (isPrimeCore trials p g).1 = true := by
  rcases lt_or_ge p 5 with hlt | h5
  · have hsmall : p = 2 ∨ p = 3 := by
      have h4 : p ≠ 4 := by
        rintro rfl
        exact absurd hp (by decide)
      have h2 := hp.two_le
      omega
    rw [isPrimeCore_two_or_three trials g (by omega)]
  · have hodd : p % 2 = 1 := hp.eq_two_or_odd.resolve_left (by omega)
    rw [isPrimeCore_odd trials g h5 hodd]
    exact trialLoop_fst hp.two_le (fun a ha1 ha => prime_trialPasses hp h5 ha1 ha) trials g

/-! ### The command -/

/-- The state a command that tests OPA is in after the test: the results cleared, the draws made. -/
def afterTest (s : State) : State := setGen (testPrime (sint s.opa) s).2 (clearResults s)

@[simp] theorem afterTest_gen (s : State) : (afterTest s).gen = (testPrime (sint s.opa) s).2 := rfl

theorem afterTest_results (s : State) : ResultsAre (afterTest s) 0 0 0 := ⟨rfl, rfl, rfl⟩

theorem testPrime_plainlyComposite {s : State} (h : PlainlyComposite (sint s.opa)) :
    testPrime (sint s.opa) s = (false, s.gen) := isPrimeCore_plainlyComposite _ _ h

theorem testPrime_two_or_three {s : State} (h : sint s.opa = 2 ∨ sint s.opa = 3) :
    testPrime (sint s.opa) s = (true, s.gen) := isPrimeCore_two_or_three _ _ h

theorem testPrime_run {s : State} {x : Nat} (h5 : 5 ≤ x) (hodd : x % 2 = 1) (hx : sint s.opa = x) :
    TrialRun s.mrTrials.toNat x s.gen (testPrime (sint s.opa) s).1 (testPrime (sint s.opa) s).2 :=
  hx ▸ isPrimeCore_run s.mrTrials.toNat h5 hodd s.gen

theorem testPrime_prime {s : State} {p : Nat} (hp : p.Prime) (hx : sint s.opa = p) :
    (testPrime (sint s.opa) s).1 = true := hx ▸ isPrimeCore_prime _ _ hp

theorem exec_isprime (s : State) :
    exec .isprime s = succeed (setResults (natBits64 (testPrime (sint s.opa) s).1.toNat) 0 0 (afterTest s)) := rfl

/-- Settles O13: the verdict and the draws of the test in each of its cases. -/
theorem isprimeVerdict : Obligations.IsprimeVerdict := by
  intro s
  obtain ⟨t, hexec, hflags, hframe, hgen, hresults⟩ := exec_nat_end (u := afterTest s) rfl (exec_isprime s)
  rw [afterTest_gen] at hgen
  refine ⟨t, hexec, hflags, hframe, ?_, fun h => ?_, fun h => ?_, fun x h5 hodd hx => ?_⟩
  · cases hverdict : (testPrime (sint s.opa) s).1 with
    | false =>
      rw [hverdict] at hresults
      exact .inl hresults
    | true =>
      rw [hverdict] at hresults
      exact .inr hresults
  · rw [testPrime_plainlyComposite h] at hgen hresults
    exact ⟨hresults, hgen⟩
  · rw [testPrime_two_or_three h] at hgen hresults
    exact ⟨hresults, hgen⟩
  · have hrun := testPrime_run h5 hodd hx
    rw [← hgen] at hrun
    refine ⟨_, hrun, ?_⟩
    rw [← hrun.verdict_eq_false_iff]
    generalize (testPrime (sint s.opa) s).1 = verdict at hresults ⊢
    obtain ⟨hres0, hres⟩ := hresults
    cases verdict with
    | false => exact ⟨⟨hres0, hres⟩, iff_of_true hres0 rfl⟩
    | true => exact ⟨⟨hres0, hres⟩, iff_of_false (by rw [hres0]; decide) Bool.noConfusion⟩

/-- Settles O14: every witness that can be drawn passes, so the run of trials makes all its draws. -/
theorem isprimeAcceptsEveryPrime : Obligations.IsprimeAcceptsEveryPrime := by
  intro s p hp hx
  have hverdict := testPrime_prime hp hx
  obtain ⟨t, hexec, hflags, hframe, hgen, hresults⟩ := exec_nat_end (u := afterTest s) rfl (exec_isprime s)
  rw [hverdict] at hresults
  refine ⟨t, hexec, hflags, hframe, hresults, fun h5 => ?_⟩
  have hrun := testPrime_run h5 (hp.eq_two_or_odd.resolve_left (by omega)) hx
  rw [hverdict] at hrun
  exact hgen.trans hrun.gen_of_verdict

end Sys2Proof.Machine
end

section
/-! PrimeFactors (41_number_theory.md R123): trial division finds the primes that divide a number, each once. -/

namespace Sys2Proof.Machine

/-! ### Dividing a prime out -/

section
variable {p : Nat} (hp : p.Prime)
include hp

theorem stripFactor_pos_and_le : ∀ fuel x, 0 < x → 0 < stripFactor p fuel x ∧ stripFactor p fuel x ≤ x
  | 0, x, hx => ⟨hx, le_refl x⟩
  | fuel + 1, x, hx => by
    rw [stripFactor]
    split
    · next hdvd =>
      have hquot : 0 < x / p := Nat.div_pos (Nat.le_of_dvd hx (Nat.dvd_of_mod_eq_zero hdvd)) hp.pos
      obtain ⟨hpos, hle⟩ := stripFactor_pos_and_le fuel (x / p) hquot
      exact ⟨hpos, hle.trans (Nat.div_le_self x p)⟩
    · exact ⟨hx, le_refl x⟩

/-- What is left has the prime divisors of x but p: with fuel x all factors p are divided out. -/
theorem prime_dvd_stripFactor_iff {q : Nat} (hq : q.Prime) :
    ∀ fuel x, 0 < x → x ≤ fuel → (q ∣ stripFactor p fuel x ↔ q ∣ x ∧ q ≠ p)
  | 0, _, hx, hfuel => absurd (hx.trans_le hfuel) (lt_irrefl 0)
  | fuel + 1, x, hx, hfuel => by
    rw [stripFactor]
    split
    · next hmod =>
      obtain ⟨y, rfl⟩ := Nat.dvd_of_mod_eq_zero hmod
      have hy : 0 < y := Nat.pos_of_mul_pos_left hx
      have hfalls : y < p * y := lt_mul_of_one_lt_left hy hp.one_lt
      rw [Nat.mul_div_cancel_left y hp.pos, prime_dvd_stripFactor_iff hq fuel y hy (by omega), hq.dvd_mul,
        Nat.prime_dvd_prime_iff_eq hq hp]
      tauto
    · next hmod =>
      refine (and_iff_left_of_imp fun hdvd => ?_).symm
      rintro rfl
      exact hmod (Nat.mod_eq_zero_of_dvd hdvd)

end

/-! ### Trial division -/

/-- The list holds the primes that divide x, each once. -/
def IsFactorList (l : List Nat) (x : Nat) : Prop := l.Nodup ∧ ∀ q, q ∈ l ↔ q.Prime ∧ q ∣ x

/-- When p divides x and x has no smaller prime divisor, p is prime. -/
theorem prime_of_least_divisor {p x : Nat} (hp : 2 ≤ p) (hpx : p ∣ x) (hleast : ∀ q, q.Prime → q ∣ x → p ≤ q) :
    p.Prime :=
  Nat.prime_def_minFac.mpr ⟨hp, le_antisymm (Nat.minFac_le (by omega))
    (hleast _ (Nat.minFac_prime (by omega)) ((Nat.minFac_dvd p).trans hpx))⟩

/-- When x is below p² and has no prime divisor below p, x is prime. -/
theorem prime_of_lt_sq {p x : Nat} (hx : 1 < x) (hlt : x < p * p) (hleast : ∀ q, q.Prime → q ∣ x → p ≤ q) :
    x.Prime := by
  by_contra hcomposite
  have hle : x.minFac * x.minFac ≤ x := pow_two x.minFac ▸ Nat.minFac_sq_le_self (by omega) hcomposite
  have hp : p ≤ x.minFac := hleast _ (Nat.minFac_prime (by omega)) (Nat.minFac_dvd x)
  exact absurd (hlt.trans_le (Nat.mul_le_mul hp hp)) (not_lt.mpr hle)

/-- Without prime divisors the list is empty, and a prime has itself alone. -/
theorem isFactorList_nil {x : Nat} (h : ∀ q, q.Prime → ¬ q ∣ x) : IsFactorList [] x :=
  ⟨List.nodup_nil, fun q => iff_of_false List.not_mem_nil fun ⟨hq, hqx⟩ => h q hq hqx⟩

theorem isFactorList_prime {x : Nat} (hx : x.Prime) : IsFactorList [x] x := by
  refine ⟨List.nodup_singleton x, fun q => ?_⟩
  rw [List.mem_singleton]
  constructor
  · rintro rfl
    exact ⟨hx, dvd_refl q⟩
  · rintro ⟨hq, hqx⟩
    exact (Nat.prime_dvd_prime_iff_eq hq hx).mp hqx

/-- A prime divisor p goes in front of the list of what is left when p is divided out. -/
theorem IsFactorList.cons {l : List Nat} {p x : Nat} (hp : p.Prime) (hpx : p ∣ x) (hx : 0 < x)
    (h : IsFactorList l (stripFactor p x x)) : IsFactorList (p :: l) x := by
  obtain ⟨hnodup, hmem⟩ := h
  have hstrip : ∀ q, q ∈ l ↔ q.Prime ∧ q ∣ x ∧ q ≠ p := fun q => by
    rw [hmem]
    exact and_congr_right fun hq => prime_dvd_stripFactor_iff hp hq x x hx (le_refl x)
  refine ⟨List.nodup_cons.mpr ⟨fun hmem => ?_, hnodup⟩, fun q => ?_⟩
  · obtain ⟨-, -, hne⟩ := (hstrip p).mp hmem
    exact hne rfl
  · rw [List.mem_cons, hstrip]
    by_cases hqp : q = p
    · subst hqp
      exact iff_of_true (.inl rfl) ⟨hp, hpx⟩
    · tauto

/-- Trial division from p, when x has no prime divisor below p and the fuel reaches x. -/
theorem factorsFrom_isFactorList : ∀ (fuel p x : Nat), 2 ≤ p → 0 < x → x < fuel + p →
    (∀ q, q.Prime → q ∣ x → p ≤ q) → IsFactorList (factorsFrom fuel p x) x
  | 0, p, x, _, hx, hfuel, hleast => isFactorList_nil fun q hq hqx => by
    have hpq := hleast q hq hqx
    have hqle := Nat.le_of_dvd hx hqx
    omega
  | fuel + 1, p, x, hp2, hx, hfuel, hleast => by
    rw [factorsFrom]
    split
    · split
      · next hmod =>
        have hpx := Nat.dvd_of_mod_eq_zero hmod
        have hp := prime_of_least_divisor hp2 hpx hleast
        obtain ⟨hpos, hle⟩ := stripFactor_pos_and_le hp x x hx
        refine .cons hp hpx hx (factorsFrom_isFactorList fuel (p + 1) _ (by omega) hpos (by omega) fun q hq hqx => ?_)
        obtain ⟨hqx, hne⟩ := (prime_dvd_stripFactor_iff hp hq x x hx (le_refl x)).mp hqx
        exact lt_of_le_of_ne (hleast q hq hqx) hne.symm
      · next hmod =>
        refine factorsFrom_isFactorList fuel (p + 1) x (by omega) hx (by omega) fun q hq hqx => ?_
        refine lt_of_le_of_ne (hleast q hq hqx) ?_
        rintro rfl
        exact hmod (Nat.mod_eq_zero_of_dvd hqx)
    · next hsq =>
      split
      · next hx1 => exact isFactorList_prime (prime_of_lt_sq hx1 (not_le.mp hsq) hleast)
      · next hx1 =>
        obtain rfl : x = 1 := by omega
        exact isFactorList_nil fun q hq hq1 => hq.one_lt.ne' (Nat.dvd_one.mp hq1)

theorem primeFactors_isFactorList {x : Nat} (hx : 1 ≤ x) : IsFactorList (primeFactors x) x :=
  factorsFrom_isFactorList (x + 1) 2 x (le_refl 2) hx (by omega) fun _ hq _ => hq.two_le

/-- Settles O17: trial division from 2, below which there is no prime. -/
theorem primeFactorsExact : Obligations.PrimeFactorsExact :=
  ⟨rfl, fun _ hx => primeFactors_isFactorList hx⟩

end Sys2Proof.Machine
end

section
/-! Primitive roots and roots of unity (41_number_theory.md R124 to R127, R136 items 5 and 6): the search for the first
accepted candidate, what an accepted candidate is modulo a prime, and the two commands. -/

namespace Sys2Proof.Machine

/-! ### The search -/

/-- The generator test with the exact prime factors of m - 1 is the acceptance of R124. -/
theorem candidatePasses_iff {m : Nat} (hm : 2 ≤ m) (r : Nat) :
    candidatePasses m (primeFactors (m - 1)) r = true ↔ Accepted m r := by
  obtain ⟨-, hmem⟩ := primeFactors_isFactorList (show 1 ≤ m - 1 by omega)
  simp only [candidatePasses, List.all_eq_true, bne_iff_ne, hmem, and_imp, Accepted,
    powCore_natCast _ _ (show 0 < m by omega)]

/-- The search answers the first candidate that passes, when there is one among the `n` from r on. -/
theorem searchFrom_of_exists {m : Nat} {fs : List Nat} :
    ∀ (n r : Nat), (∃ c, r ≤ c ∧ c < r + n ∧ candidatePasses m fs c = true) →
      ∃ c, searchFrom m fs n r = some c ∧ r ≤ c ∧ c < r + n ∧ candidatePasses m fs c = true ∧
        ∀ c', r ≤ c' → c' < c → ¬ candidatePasses m fs c' = true
  | 0, r, ⟨c, hlo, hhi, _⟩ => absurd hhi (not_lt.mpr hlo)
  | n + 1, r, ⟨c, hlo, hhi, hpass⟩ => by
    rw [searchFrom]
    split
    · next hr => exact ⟨r, rfl, le_refl r, by omega, hr, fun c' hlo' hhi' => absurd hhi' (not_lt.mpr hlo')⟩
    · next hr =>
      have hne : r ≠ c := by
        rintro rfl
        exact hr hpass
      obtain ⟨first, hsearch, hlo, hhi, hpass, hbefore⟩ := searchFrom_of_exists n (r + 1) ⟨c, by omega, by omega, hpass⟩
      refine ⟨first, hsearch, by omega, by omega, hpass, fun c' hlo' hhi' => ?_⟩
      by_cases hc' : c' = r
      · exact hc' ▸ hr
      · exact hbefore c' (by omega) hhi'

theorem primRootSearch_of_exists {m : Nat} (hm : 3 ≤ m) (h : ∃ r, 2 ≤ r ∧ r < m ∧ Accepted m r) :
    ∃ r, primRootSearch m = .ok r ∧ FirstAccepted m r := by
  simp only [← candidatePasses_iff (show 2 ≤ m by omega), FirstAccepted] at h ⊢
  obtain ⟨r, hlo, hhi, hpass⟩ := h
  obtain ⟨first, hsearch, hlo, hhi, hpass, hbefore⟩ :=
    searchFrom_of_exists (m - 2) 2 ⟨r, hlo, by omega, hpass⟩
  exact ⟨first, by rw [primRootSearch, hsearch], hlo, by omega, hpass, hbefore⟩

/-- m = 2 has no candidate (41_number_theory.md R125). -/
theorem primRootSearch_two : primRootSearch 2 = .error .primitiveRootNotFound := rfl

/-! ### Modulo a prime -/

section
variable {m : Nat} (hm : m.Prime)
include hm

theorem pow_pred_eq_one {r : Nat} (hr : ¬ m ∣ r) : (r : ZMod m) ^ (m - 1) = 1 := by
  have := Fact.mk hm
  exact ZMod.pow_card_sub_one_eq_one (mt (ZMod.natCast_eq_zero_iff r m).mp hr)

/-- An accepted candidate is a primitive root, because the prime factors of m - 1 are all tried. -/
theorem accepted_iff_orderOf {r : Nat} (hr : ¬ m ∣ r) : Accepted m r ↔ orderOf (r : ZMod m) = m - 1 := by
  have hpos : 0 < m - 1 := Nat.sub_pos_of_lt hm.one_lt
  have hpow : ∀ n, (r : ZMod m) ^ n = 1 ↔ r ^ n % m = 1 := fun n => by
    rw [← natCast_eq_one_iff hm.one_lt, Nat.cast_pow]
  simp only [Accepted, ne_eq, ← hpow]
  constructor
  · exact orderOf_eq_of_pow_and_pow_div_prime hpos (pow_pred_eq_one hm hr)
  · intro horder f hf hfm hone
    have hdvd : orderOf (r : ZMod m) ∣ (m - 1) / f := orderOf_dvd_of_pow_eq_one hone
    rw [horder] at hdvd
    have hquot : 0 < (m - 1) / f := Nat.div_pos (Nat.le_of_dvd hpos hfm) hf.pos
    exact absurd (Nat.le_of_dvd hquot hdvd) (not_le.mpr (Nat.div_lt_self hpos hf.one_lt))

/-- The units modulo a prime are cyclic, and from m = 3 on the generator is not 1. -/
theorem exists_accepted_of_prime (h3 : 3 ≤ m) : ∃ r, 2 ≤ r ∧ r < m ∧ Accepted m r := by
  have := Fact.mk hm
  obtain ⟨g, hg⟩ := IsCyclic.exists_ofOrder_eq_natCard (α := (ZMod m)ˣ)
  have horder : orderOf (g : ZMod m) = m - 1 := by
    rw [orderOf_units, hg, Nat.card_eq_fintype_card, ZMod.card_units]
  have hval : (((g : ZMod m).val : Nat) : ZMod m) = g := ZMod.natCast_zmod_val _
  have h0 : (g : ZMod m).val ≠ 0 := fun h => g.ne_zero ((ZMod.val_eq_zero _).mp h)
  have h1 : (g : ZMod m).val ≠ 1 := fun h => by
    rw [← hval, h, Nat.cast_one, orderOf_one] at horder
    omega
  have hlt : (g : ZMod m).val < m := ZMod.val_lt _
  refine ⟨(g : ZMod m).val, by omega, hlt, (accepted_iff_orderOf hm (Nat.not_dvd_of_pos_of_lt (by omega) hlt)).mpr ?_⟩
  rw [hval, horder]

/-- The first accepted candidate is the smallest primitive root (41_number_theory.md R136 item 5). -/
theorem FirstAccepted.smallest {r : Nat} (h : FirstAccepted m r) :
    orderOf (r : ZMod m) = m - 1 ∧ ∀ r' : Nat, 2 ≤ r' → r' < r → orderOf (r' : ZMod m) ≠ m - 1 := by
  obtain ⟨h2, hlt, haccepted, hbefore⟩ := h
  have hndvd : ∀ c, 2 ≤ c → c < m → ¬ m ∣ c := fun c hc hcm => Nat.not_dvd_of_pos_of_lt (by omega) hcm
  refine ⟨(accepted_iff_orderOf hm (hndvd r h2 hlt)).mp haccepted, fun r' hr2 hr' => ?_⟩
  rw [ne_eq, ← accepted_iff_orderOf hm (hndvd r' hr2 (hr'.trans hlt))]
  exact hbefore r' hr2 hr'

/-- The power (m - 1)/k of a primitive root has order k (41_number_theory.md R136 item 6). -/
theorem orderOf_root_of_unity {g k : Nat} (hg : orderOf (g : ZMod m) = m - 1) (hk : k ∣ m - 1) :
    orderOf ((g ^ ((m - 1) / k) % m : Nat) : ZMod m) = k := by
  have hpos : 0 < m - 1 := Nat.sub_pos_of_lt hm.one_lt
  have hquot : (m - 1) / k ≠ 0 := (Nat.div_pos (Nat.le_of_dvd hpos hk) (Nat.pos_of_dvd_of_pos hk hpos)).ne'
  have hdvd : (m - 1) / k ∣ orderOf (g : ZMod m) := by
    rw [hg]
    exact Nat.div_dvd_of_dvd hk
  rw [ZMod.natCast_mod, Nat.cast_pow, orderOf_pow_of_dvd hquot hdvd, hg,
    Nat.div_div_self hk hpos.ne']

end

/-! ### Modulo any odd number -/

/-- Powers of a number that shares a factor with m are never 1, so that factor passes the generator test. -/
theorem accepted_minFac {m : Nat} (hm : 2 ≤ m) : Accepted m m.minFac := by
  intro f hf hfm hone
  have hquot : (m - 1) / f ≠ 0 := (Nat.div_pos (Nat.le_of_dvd (by omega) hfm) hf.pos).ne'
  have hdvd : m.minFac ∣ m.minFac ^ ((m - 1) / f) % m :=
    (Nat.dvd_mod_iff (Nat.minFac_dvd m)).mpr (dvd_pow_self _ hquot)
  rw [hone] at hdvd
  exact (Nat.minFac_prime (by omega)).one_lt.ne' (Nat.dvd_one.mp hdvd)

/-- From 3 on a candidate is accepted: a primitive root of a prime, a factor of a composite number. -/
theorem exists_accepted {m : Nat} (hm : 3 ≤ m) : ∃ r, 2 ≤ r ∧ r < m ∧ Accepted m r := by
  by_cases hprime : m.Prime
  · exact exists_accepted_of_prime hprime hm
  · exact ⟨m.minFac, (Nat.minFac_prime (by omega)).two_le,
      (Nat.not_prime_iff_minFac_lt (by omega)).mp hprime, accepted_minFac (by omega)⟩

theorem exists_primRootSearch {m : Nat} (hm : 3 ≤ m) : ∃ r, primRootSearch m = .ok r ∧ FirstAccepted m r :=
  primRootSearch_of_exists hm (exists_accepted hm)

/-! ### RootOfUnityCore -/

theorem rootOfUnityCore_invalidOrder {m : Nat} {k : Int} (h : k < 1 ∨ ((m : Int) - 1) % k ≠ 0) :
    rootOfUnityCore m k = .error .invalidOrder := if_pos h

section
variable {m k : Nat} (hm : 1 ≤ m) (hk : 1 ≤ k) (hdvd : (m - 1) % k = 0)
include hm hk hdvd

theorem not_invalidOrder : ¬ ((k : Int) < 1 ∨ ((m : Int) - 1) % k ≠ 0) := by
  have hpred : (m : Int) - 1 = (m - 1 : Nat) := by omega
  rw [hpred, ← Int.natCast_mod, hdvd]
  omega

theorem rootOfUnityCore_of_search_error {e : ErrorCode} (h : primRootSearch m = .error e) :
    rootOfUnityCore m k = .error e := by
  rw [rootOfUnityCore, if_neg (not_invalidOrder hm hk hdvd), h]

theorem rootOfUnityCore_of_search_ok {g : Nat} (h : primRootSearch m = .ok g) :
    rootOfUnityCore m k =
      if g ^ ((m - 1) / k) % m = 1 then .error .rootDegenerate else .ok (g ^ ((m - 1) / k) % m) := by
  rw [rootOfUnityCore, if_neg (not_invalidOrder hm hk hdvd), h]
  simp only [Int.toNat_natCast, powCore_natCast _ _ (show 0 < m from hm)]

end

/-! ### The commands -/

/-- The answer of a command that tests its modulus first: NOT_PRIME when the test says so (R125, R127). -/
def checkedPrime (verdict : Bool) (r : Except ErrorCode Nat) : Except ErrorCode Nat :=
  if verdict = false then .error .notPrime else r

theorem checkedPrime_false (r : Except ErrorCode Nat) : checkedPrime false r = .error .notPrime := rfl

theorem checkedPrime_true (r : Except ErrorCode Nat) : checkedPrime true r = r := rfl

theorem finishNat_checkedPrime (verdict : Bool) (r : Except ErrorCode Nat) (s : State) :
    finishNat (checkedPrime verdict r) s = if verdict = false then raise .notPrime s else finishNat r s := by
  cases verdict <;> rfl

theorem exec_primroot (s : State) : exec .primroot s =
    finishNat (checkedPrime (testPrime (sint s.opa) s).1 (primRootSearch (sint s.opa).toNat)) (afterTest s) :=
  (finishNat_checkedPrime _ _ _).symm

theorem exec_rootunity (s : State) : exec .rootunity s =
    finishNat (checkedPrime (testPrime (sint s.opa) s).1 (rootOfUnityCore (sint s.opa).toNat (sint s.opb)))
      (afterTest s) :=
  (finishNat_checkedPrime _ _ _).symm

/-- PRIMROOT of a modulus from 3: what the verdict of the test decides (41_number_theory.md R125). -/
theorem exec_primroot_cases {s : State} {m : Nat} (h3 : 3 ≤ m) (hm : sint s.opa = m) :
    ∃ t, exec .primroot s = .next t ∧ UtilityFrame s t ∧ t.gen = (testPrime (sint s.opa) s).2 ∧
      ((testPrime (sint s.opa) s).1 = false → Failed .notPrime t ∧ ResultsAre t 0 0 0) ∧
      ((testPrime (sint s.opa) s).1 = true → Succeeded t ∧ ∃ r, FirstAccepted m r ∧ ResultsAre t (natBits64 r) 0 0) := by
  obtain ⟨r, hsearch, hfirst⟩ := exists_primRootSearch h3
  obtain ⟨t, hexec, hframe, hgen, herror, hok⟩ := exec_answer_end rfl (exec_primroot s) (afterTest_results s)
  have hnat : (sint s.opa).toNat = m := by rw [hm, Int.toNat_natCast]
  rw [hnat, hsearch] at herror hok
  refine ⟨t, hexec, hframe, hgen, fun hverdict => ?_, fun hverdict => ?_⟩
  · rw [hverdict] at herror
    exact herror _ (checkedPrime_false _)
  · rw [hverdict] at hok
    obtain ⟨hflags, hresults⟩ := hok r (checkedPrime_true _)
    exact ⟨hflags, r, hfirst, hresults⟩

/-- Settles O18: the test passes for a prime, and the first accepted candidate is then the smallest primitive root. -/
theorem primrootIsSmallest : Obligations.PrimrootIsSmallest := by
  refine ⟨fun s m hprime h3 hm => ?_, fun s m h5 hodd hm => ?_⟩
  · obtain ⟨t, hexec, hframe, -, -, hok⟩ := exec_primroot_cases h3 hm
    obtain ⟨hflags, r, hfirst, hresults⟩ := hok (testPrime_prime hprime hm)
    obtain ⟨horder, hsmaller⟩ := hfirst.smallest hprime
    obtain ⟨h2, hlt, -, -⟩ := hfirst
    exact ⟨t, r, hexec, hflags, hframe, hresults, h2, hlt, horder, hsmaller⟩
  · obtain ⟨t, hexec, hframe, hgen, hfail, hok⟩ := exec_primroot_cases (show 3 ≤ m by omega) hm
    exact ⟨t, _, hexec, hframe, hgen ▸ testPrime_run h5 hodd hm, hfail, hok⟩

/-- ROOTUNITY: what the verdict of the test and the order decide (41_number_theory.md R127). -/
theorem exec_rootunity_cases {s : State} {m : Nat} (hm : sint s.opa = m) :
    ∃ t, exec .rootunity s = .next t ∧ UtilityFrame s t ∧ t.gen = (testPrime (sint s.opa) s).2 ∧
      ((testPrime (sint s.opa) s).1 = false → Failed .notPrime t ∧ ResultsAre t 0 0 0) ∧
      ((testPrime (sint s.opa) s).1 = true →
        (∀ e, rootOfUnityCore m (sint s.opb) = .error e → Failed e t ∧ ResultsAre t 0 0 0) ∧
        (∀ c, rootOfUnityCore m (sint s.opb) = .ok c → Succeeded t ∧ ResultsAre t (natBits64 c) 0 0)) := by
  obtain ⟨t, hexec, hframe, hgen, herror, hok⟩ := exec_answer_end rfl (exec_rootunity s) (afterTest_results s)
  have hnat : (sint s.opa).toNat = m := by rw [hm, Int.toNat_natCast]
  rw [hnat] at herror hok
  refine ⟨t, hexec, hframe, hgen, fun hverdict => ?_, fun hverdict => ?_⟩
  · rw [hverdict] at herror
    exact herror _ (checkedPrime_false _)
  · rw [hverdict, checkedPrime_true] at herror hok
    exact ⟨herror, hok⟩

/-- With a valid order and a modulus from 3 the answer is a power of the first accepted candidate, or
ROOT_DEGENERATE. -/
theorem rootOfUnityCore_cases {m k : Nat} (h3 : 3 ≤ m) (hk : 1 ≤ k) (hdvd : (m - 1) % k = 0) :
    ∃ g, FirstAccepted m g ∧
      (g ^ ((m - 1) / k) % m = 1 → rootOfUnityCore m k = .error .rootDegenerate) ∧
      (g ^ ((m - 1) / k) % m ≠ 1 → rootOfUnityCore m k = .ok (g ^ ((m - 1) / k) % m)) := by
  obtain ⟨g, hsearch, hfirst⟩ := exists_primRootSearch h3
  have hcore := rootOfUnityCore_of_search_ok (show 1 ≤ m by omega) hk hdvd hsearch
  exact ⟨g, hfirst, fun hone => hcore.trans (if_pos hone), fun hne => hcore.trans (if_neg hne)⟩

/-- Modulo a prime the root has order k, so it is 1 for k = 1 only. -/
theorem rootOfUnityCore_prime {m k : Nat} (hm : m.Prime) (h3 : 3 ≤ m) (hk : 1 ≤ k) (hdvd : (m - 1) % k = 0) :
    (k = 1 → rootOfUnityCore m k = .error .rootDegenerate) ∧
    (2 ≤ k → ∃ c, rootOfUnityCore m k = .ok c ∧ c < m ∧ orderOf (c : ZMod m) = k) := by
  obtain ⟨g, hfirst, hdegenerate, hroot⟩ := rootOfUnityCore_cases h3 hk hdvd
  obtain ⟨hgenerator, -⟩ := hfirst.smallest hm
  have horder := orderOf_root_of_unity hm hgenerator (Nat.dvd_of_mod_eq_zero hdvd)
  have hone : g ^ ((m - 1) / k) % m = 1 ↔ k = 1 := by
    conv_rhs => rw [← horder]
    rw [orderOf_eq_one_iff, natCast_eq_one_iff hm.one_lt, Nat.mod_mod]
  exact ⟨fun hk1 => hdegenerate (hone.mpr hk1),
    fun hk2 => ⟨_, hroot (mt hone.mp (by omega)), Nat.mod_lt _ hm.pos, horder⟩⟩

/-- Settles O19: the test passes for a prime, whose root has order exactly k; the other clauses are the cases of
RootOfUnityCore. -/
theorem rootunityHasExactOrder : Obligations.RootunityHasExactOrder := by
  refine ⟨fun s m k hprime hk hdvd h3 hm hopb => ?_, fun s m h5 hodd hm => ?_⟩
  · obtain ⟨t, hexec, hframe, -, -, hpass⟩ := exec_rootunity_cases hm
    obtain ⟨-, hok⟩ := hpass (testPrime_prime hprime hm)
    obtain ⟨-, hroot⟩ := rootOfUnityCore_prime hprime h3 (by omega) hdvd
    obtain ⟨c, hc, hlt, horder⟩ := hroot hk
    obtain ⟨hflags, hresults⟩ := hok c (hopb ▸ hc)
    exact ⟨t, c, hexec, hflags, hframe, hresults, hlt, horder⟩
  · obtain ⟨t, hexec, hframe, hgen, hfail, hpass⟩ := exec_rootunity_cases hm
    refine ⟨t, _, hexec, hframe, hgen ▸ testPrime_run h5 hodd hm, hfail, fun hverdict => ?_⟩
    obtain ⟨herror, hok⟩ := hpass hverdict
    refine ⟨fun hinvalid => herror _ (rootOfUnityCore_invalidOrder hinvalid), fun k hk hdvd hopb => ?_⟩
    obtain ⟨g, hfirst, hdegenerate, hroot⟩ := rootOfUnityCore_cases (show 3 ≤ m by omega) hk hdvd
    exact ⟨g, hfirst, fun hone => herror _ (hopb ▸ hdegenerate hone), fun hne => hok _ (hopb ▸ hroot hne)⟩

/-- ROOTUNITY of a prime fails with the error of RootOfUnityCore. -/
theorem exec_rootunity_prime_error {s : State} {m : Nat} (hprime : m.Prime) (hm : sint s.opa = m) {e : ErrorCode}
    (he : rootOfUnityCore m (sint s.opb) = .error e) :
    ∃ t, exec .rootunity s = .next t ∧ Failed e t ∧ UtilityFrame s t ∧ ResultsAre t 0 0 0 := by
  obtain ⟨t, hexec, hframe, -, -, hpass⟩ := exec_rootunity_cases hm
  obtain ⟨herror, -⟩ := hpass (testPrime_prime hprime hm)
  obtain ⟨hflags, hresults⟩ := herror e he
  exact ⟨t, hexec, hflags, hframe, hresults⟩

/-- A plainly composite modulus fails the test with no draw, in both commands. -/
theorem exec_plainlyComposite {i : Instr} {s : State} {r : Except ErrorCode Nat} (hi : isUtility i = true)
    (hexec : exec i s = finishNat (checkedPrime (testPrime (sint s.opa) s).1 r) (afterTest s))
    (h : PlainlyComposite (sint s.opa)) :
    ∃ t, exec i s = .next t ∧ Failed .notPrime t ∧ UtilityFrame s t ∧ ResultsAre t 0 0 0 ∧ t.gen = s.gen := by
  obtain ⟨t, hexec, hframe, hgen, herror, -⟩ := exec_answer_end hi hexec (afterTest_results s)
  rw [afterTest_gen, testPrime_plainlyComposite h] at hgen
  rw [testPrime_plainlyComposite h] at herror
  obtain ⟨hflags, hresults⟩ := herror _ (checkedPrime_false r)
  exact ⟨t, hexec, hflags, hframe, hresults, hgen⟩

/-- Settles O20: the errors of the two commands in the order of their checks. -/
theorem rootSearchErrors : Obligations.RootSearchErrors := by
  intro s
  refine ⟨fun h2 => ?_, exec_plainlyComposite rfl (exec_primroot s), fun h => ?_, fun m hprime hm =>
    ⟨fun hinvalid => ?_, fun hk h2 => ?_, fun hk h3 => ?_⟩⟩
  · obtain ⟨t, hexec, hframe, -, herror, -⟩ := exec_answer_end rfl (exec_primroot s) (afterTest_results s)
    rw [testPrime_two_or_three (.inl h2), checkedPrime_true, h2] at herror
    obtain ⟨hflags, hresults⟩ := herror _ primRootSearch_two
    exact ⟨t, hexec, hflags, hframe, hresults⟩
  · obtain ⟨t, hexec, hflags, hframe, hresults, -⟩ := exec_plainlyComposite rfl (exec_rootunity s) h
    exact ⟨t, hexec, hflags, hframe, hresults⟩
  · exact exec_rootunity_prime_error hprime hm (rootOfUnityCore_invalidOrder hinvalid)
  · subst h2
    exact exec_rootunity_prime_error hprime hm
      (hk ▸ rootOfUnityCore_of_search_error (k := 1) one_le_two (le_refl 1) rfl primRootSearch_two)
  · obtain ⟨hdegenerate, -⟩ := rootOfUnityCore_prime hprime h3 (le_refl 1) (Nat.mod_one _)
    exact exec_rootunity_prime_error hprime hm (hk ▸ hdegenerate rfl)

end Sys2Proof.Machine
end

section
/-! The bit-reversal unit (42_bit_reversal.md R160 to R164): the bits of brev, the permutation of whole elements, and the
three commands. -/

namespace Sys2Proof.Machine

/-! ### The bits of brev (42_bit_reversal.md R160) -/

/-- Each further bit of v becomes the lowest bit of the result. -/
theorem brev_succ (v w : Nat) : brev v (w + 1) = Nat.bit (v.testBit w) (brev v w) := (Nat.bit_val _ _).symm

/-- Every bit of brev, at any position: the low w bits in reverse order and 0 above them. -/
theorem testBit_brev (v : Nat) : ∀ w j, (brev v w).testBit j = (decide (j < w) && v.testBit (w - 1 - j))
  | 0, j => by simp [brev]
  | w + 1, 0 => by simp [brev_succ]
  | w + 1, j + 1 => by
    have hpos : w + 1 - 1 - (j + 1) = w - 1 - j := by omega
    rw [brev_succ, Nat.testBit_bit_succ, testBit_brev v w j, hpos]
    simp

theorem brev_lt (v w : Nat) : brev v w < 2 ^ w :=
  Nat.lt_pow_two_of_testBit _ fun j hj => by simp [testBit_brev, hj]

theorem brev_mod (v w : Nat) : brev (v % 2 ^ w) w = brev v w := by
  refine Nat.eq_of_testBit_eq fun j => ?_
  rw [testBit_brev, testBit_brev, Nat.testBit_mod_two_pow]
  by_cases hj : j < w
  · have hlow : w - 1 - j < w := by omega
    simp [hj, hlow]
  · simp [hj]

/-- Bit k goes to position w - 1 - k. -/
theorem testBit_brev_reversed (v : Nat) {w k : Nat} (hk : k < w) : (brev v w).testBit (w - 1 - k) = v.testBit k := by
  have hlow : w - 1 - k < w := by omega
  have hback : w - 1 - (w - 1 - k) = k := by omega
  rw [testBit_brev, hback]
  simp [hlow]

/-- Reversing twice leaves the low w bits in place. -/
theorem brev_brev (v w : Nat) : brev (brev v w) w = v % 2 ^ w := by
  refine Nat.eq_of_testBit_eq fun j => ?_
  rw [testBit_brev, Nat.testBit_mod_two_pow]
  by_cases hj : j < w
  · rw [testBit_brev_reversed v hj]
  · simp [hj]

/-- The recursion doubles what it has so far, which is one more in the exponent of each term. -/
theorem brev_eq_sum (v w : Nat) : brev v w = ∑ k ∈ Finset.range w, (v.testBit k).toNat * 2 ^ (w - 1 - k) := by
  induction w with
  | zero => rfl
  | succ w ih =>
    have hdouble : ∀ k ∈ Finset.range w,
        2 * ((v.testBit k).toNat * 2 ^ (w - 1 - k)) = (v.testBit k).toNat * 2 ^ (w + 1 - 1 - k) := fun k hk => by
      have hexp : w + 1 - 1 - k = w - 1 - k + 1 := by have := Finset.mem_range.mp hk; omega
      rw [hexp, pow_succ]
      ring
    rw [brev, ih, Finset.mul_sum, Finset.sum_congr rfl hdouble, Finset.sum_range_succ]
    simp

/-- Settles O27: all clauses but the sum compare bits. -/
theorem brevIsTheReversedSum : Obligations.BrevIsTheReversedSum := by
  intro v w
  exact ⟨brev_eq_sum v w, fun _ => testBit_brev_reversed v, brev_mod v w, brev_lt v w, rfl, brev_brev v w⟩

/-! ### BITREVN (42_bit_reversal.md R161) -/

theorem exec_bitrevn_ok {s : State} (h : uint s.opb ≤ 64) :
    exec .bitrevn s = succeed (setResults (natBits64 (brev (uint s.opa) (uint s.opb))) 0 0 (clearResults s)) :=
  if_neg (not_lt.mpr h)

theorem exec_bitrevn_operandRange {s : State} (h : 64 < uint s.opb) :
    exec .bitrevn s = raise .operandRange (clearResults s) :=
  if_pos h

/-- Settles O28: the check of the width, then the bits of brev in the result word. -/
theorem bitrevnReversesWord : Obligations.BitrevnReversesWord := by
  refine fun s => ⟨fun hw => ?_, fun hw => exec_check_end rfl (exec_bitrevn_operandRange hw)⟩
  obtain ⟨t, hexec, hflags, hframe, hgen, hres0, hres1, hres2⟩ := exec_nat_end rfl (exec_bitrevn_ok hw)
  refine ⟨t, hexec, hflags, hframe, hgen, fun k hk => ?_, hres1, hres2⟩
  rw [hres0, natBits64, BitVec.getLsbD_ofNat, testBit_brev]
  simp [hk, uint, BitVec.testBit_toNat]

/-! ### The permutation (42_bit_reversal.md R162) -/

theorem getElem?_bitRevPermute {α : Type} [Inhabited α] {xs : List α} {l i : Nat} (hlen : xs.length = 2 ^ l)
    (hi : i < 2 ^ l) : (bitRevPermute xs)[i]? = xs[brev i l]? := by
  have hsource : brev i l < xs.length := hlen ▸ brev_lt i l
  simp [bitRevPermute, hlen, hi, Nat.log2_two_pow, List.getElem?_eq_getElem hsource]

theorem bitRevPermute_bitRevPermute {α : Type} [Inhabited α] {xs : List α} {l : Nat} (hlen : xs.length = 2 ^ l) :
    bitRevPermute (bitRevPermute xs) = xs := by
  have hlen' : (bitRevPermute xs).length = 2 ^ l := (length_bitRevPermute xs).trans hlen
  refine List.ext_getElem? fun i => ?_
  by_cases hi : i < 2 ^ l
  · rw [getElem?_bitRevPermute hlen' hi, getElem?_bitRevPermute hlen (brev_lt i l), brev_brev, Nat.mod_eq_of_lt hi]
  · rw [List.getElem?_eq_none (by simp only [length_bitRevPermute]; omega), List.getElem?_eq_none (by omega)]

/-- Settles O29: each element is found at its reversed index, and reversing an index twice gives it back. -/
theorem bitRevPermuteInvolution : Obligations.BitRevPermuteInvolution := fun _ _ _ _ hlen =>
  ⟨fun _ hi => getElem?_bitRevPermute hlen hi, bitRevPermute_bitRevPermute hlen⟩

/-- Element i after the permutation of a loaded vector, which is given by its elements (42_bit_reversal.md R163). -/
theorem getElem?_bitRevPermute_map_range {α : Type} [Inhabited α] (f : Nat → α) {n i : Nat} (hp : isPow2 n = true)
    (hi : i < n) : (bitRevPermute ((List.range n).map f))[i]? = some (f (brev i (Nat.log2 n))) := by
  obtain ⟨l, -, rfl⟩ := (isPow2_iff n).mp hp
  rw [getElem?_bitRevPermute (by simp) hi, Nat.log2_two_pow]
  simp [brev_lt]

/-! ### A vector stored in OUT -/

/-- The two words of an element, by their positions in the vector of words. -/
theorem getElem?_pairWords {xs : List Cplx} {i : Nat} {x : Cplx} (h : xs[i]? = some x) :
    (pairWords xs)[2 * i]? = some x.re ∧ (pairWords xs)[2 * i + 1]? = some x.im := by
  obtain ⟨hi, rfl⟩ := List.getElem?_eq_some_iff.mp h
  obtain ⟨hre, him⟩ := pairWords_getElem xs i hi
  exact ⟨List.getElem?_eq_some_iff.mpr ⟨_, hre⟩, List.getElem?_eq_some_iff.mpr ⟨_, him⟩⟩

/-- Besides the completion flags, storing a vector changes only the OUT words it is stored in. -/
theorem vectorFrame_output (vs : List Word) (s : State) :
    VectorFrame vs.length s (complete 0 (bankWriteAll .outBank vs s)) := by
  refine ⟨by simp [OperandsKept], by simp [ResultsKept], by simp [NttKept], by simp [FftKept], by simp, fun a ha => ?_⟩
  exact readByte_bankWriteAll_other .outBank vs (by simp only [inWords] at ha; omega)

/-- A command that ends by storing a vector which OUT can hold. -/
theorem exec_output_end {i : Instr} {s : State} {vs : List Word} (h : exec i s = succeed (bankWriteAll .outBank vs s))
    (hwf : s.mem.wf = true) (hfit : vs.length ≤ bankWords s.config .outBank) :
    ∃ t, exec i s = .next t ∧ Succeeded t ∧ VectorFrame vs.length s t ∧
      ∀ k v, vs[k]? = some v → bankRead .outBank k t = v := by
  refine ⟨_, h, succeeded_complete _, vectorFrame_output vs s, fun k v hv => ?_⟩
  obtain ⟨hk, rfl⟩ := List.getElem?_eq_some_iff.mp hv
  exact bankRead_bankWriteAll_same hk (by omega) hwf

/-! ### BITREV.W and BITREV.C (42_bit_reversal.md R163, R164) -/

theorem withBitrevLength_ok {s : State} {body : Nat → State} (hp : isPow2 (uint s.len) = true)
    (hmax : uint s.len ≤ s.config.nMax) : withBitrevLength s body = succeed (body (uint s.len)) := by
  simp only [withBitrevLength, hp, Bool.true_eq_false, if_false, if_neg (not_lt.mpr hmax)]

theorem withBitrevLength_not_pow2 {s : State} {body : Nat → State} (hp : isPow2 (uint s.len) = false) :
    withBitrevLength s body = raise .lengthNotPowerOfTwo s :=
  if_pos hp

theorem withBitrevLength_capacity {s : State} {body : Nat → State} (hp : isPow2 (uint s.len) = true)
    (hmax : s.config.nMax < uint s.len) : withBitrevLength s body = raise .capacity s := by
  simp only [withBitrevLength, hp, Bool.true_eq_false, if_false, if_pos hmax]

theorem exec_bitrevW (s : State) : exec .bitrevW s =
    withBitrevLength s (fun len => bankWriteAll .outBank (bitRevPermute (loadWords .inBank len s)) s) := rfl

theorem exec_bitrevC (s : State) : exec .bitrevC s =
    withBitrevLength s (fun len => bankWriteAll .outBank (pairWords (bitRevPermute (loadPairs .inBank len s))) s) := rfl

/-- Settles O30: the stored words are the permutation of the loaded ones. -/
theorem bitrevWPermutes : Obligations.BitrevWPermutes := by
  intro s hwf hp hmax
  have hexec := (exec_bitrevW s).trans (withBitrevLength_ok hp hmax)
  obtain ⟨t, hnext, hflags, hframe, hwords⟩ :=
    exec_output_end hexec hwf (by simpa using hmax.trans (nMax_le_bankWords s.config .outBank))
  rw [length_bitRevPermute, length_loadWords] at hframe
  exact ⟨t, hnext, hflags, hframe, fun i hi => hwords i _ (getElem?_bitRevPermute_map_range _ hp hi)⟩

/-- Settles O31: the permutation moves pairs, and each pair is stored as its two words. -/
theorem bitrevCPermutesPairs : Obligations.BitrevCPermutesPairs := by
  intro s hwf hp hmax
  have hexec := (exec_bitrevC s).trans (withBitrevLength_ok hp hmax)
  obtain ⟨t, hnext, hflags, hframe, hwords⟩ :=
    exec_output_end hexec hwf (by simpa [bankWords] using hmax)
  rw [length_pairWords, length_bitRevPermute, length_loadPairs] at hframe
  refine ⟨t, hnext, hflags, hframe, fun i hi => ?_⟩
  obtain ⟨hre, him⟩ := getElem?_pairWords (getElem?_bitRevPermute_map_range _ hp hi)
  exact ⟨hwords _ _ hre, hwords _ _ him⟩

/-- Both commands begin with the checks of R163. -/
theorem exec_bitrev_checks {i : Instr} (hi : i = .bitrevW ∨ i = .bitrevC) (s : State) :
    ∃ body, exec i s = withBitrevLength s body := by
  rcases hi with rfl | rfl
  · exact ⟨_, exec_bitrevW s⟩
  · exact ⟨_, exec_bitrevC s⟩

theorem nothingElse_complete (e : BitVec 8) (s : State) : NothingElse s (complete e s) :=
  ⟨by simp [OperandsKept], by simp [ResultsKept], by simp [NttKept], by simp [FftKept], rfl, fun _ => rfl⟩

/-- A command that fails a check before it has changed anything. -/
theorem exec_raise_end {i : Instr} {s : State} {e : ErrorCode} (h : exec i s = raise e s) :
    ∃ t, exec i s = .next t ∧ Failed e t ∧ NothingElse s t :=
  ⟨complete e.code s, h, failed_complete e s, nothingElse_complete e.code s⟩

/-- Settles O32: the two checks in their order, before the body. -/
theorem bitrevErrors : Obligations.BitrevErrors := by
  intro s i hi
  obtain ⟨body, hexec⟩ := exec_bitrev_checks hi s
  rw [← isPow2_iff, Bool.not_eq_true]
  exact ⟨fun hp => exec_raise_end (hexec.trans (withBitrevLength_not_pow2 hp)),
    fun hp hmax => exec_raise_end (hexec.trans (withBitrevLength_capacity hp hmax))⟩

end Sys2Proof.Machine
end

section
/-! The contexts of the transform engine (43_transform_engine.md R180, R190, R191, 60_exceptions.md R213): the two
releases, the checks of the four transforms, and every way NTT.INIT ends. -/

namespace Sys2Proof.Machine

/-! ### The releases -/

/-- Settles O12: each release is its context's release and the completion. -/
theorem releaseClearsContext : Obligations.ReleaseClearsContext := fun _ => ⟨rfl, rfl⟩

/-! ### The checks of the transforms -/

theorem uint_injective : Function.Injective uint := fun _ _ h => BitVec.eq_of_toNat_eq h

theorem withNttEngine_not_ready {s : State} (hready : s.status.nttReady = false) (body : State) :
    withNttEngine s body = raise .notReady s :=
  if_pos hready

theorem withNttEngine_bad_length {s : State} (hready : s.status.nttReady = true) (hlen : s.len ≠ s.ntt.n)
    (body : State) :
    withNttEngine s body = raise .invalidLength s :=
  (if_neg (by simp [hready])).trans (if_pos (uint_injective.ne hlen))

theorem withNttEngine_ok {s : State} (hready : s.status.nttReady = true) (hlen : s.len = s.ntt.n) (body : State) :
    withNttEngine s body = succeed body :=
  (if_neg (by simp [hready])).trans (if_neg (by simp [hlen]))

theorem withFftEngine_not_ready {s : State} (hready : s.status.fftReady = false) (body : State) :
    withFftEngine s body = raise .notReady s :=
  if_pos hready

theorem withFftEngine_bad_length {s : State} (hready : s.status.fftReady = true) (hlen : s.len ≠ s.fft.n)
    (body : State) :
    withFftEngine s body = raise .invalidLength s :=
  (if_neg (by simp [hready])).trans (if_pos (uint_injective.ne hlen))

theorem withFftEngine_ok {s : State} (hready : s.status.fftReady = true) (hlen : s.len = s.fft.n) (body : State) :
    withFftEngine s body = succeed body :=
  (if_neg (by simp [hready])).trans (if_neg (by simp [hlen]))

theorem exec_ntt_checks {i : Instr} (hi : i = .nttFwd ∨ i = .nttInv) (s : State) :
    ∃ body, exec i s = withNttEngine s body := by
  rcases hi with rfl | rfl
  · exact ⟨_, rfl⟩
  · exact ⟨_, rfl⟩

theorem exec_fft_checks {i : Instr} (hi : i = .fftFwd ∨ i = .fftInv) (s : State) :
    ∃ body, exec i s = withFftEngine s body := by
  rcases hi with rfl | rfl
  · exact ⟨_, rfl⟩
  · exact ⟨_, rfl⟩

/-- Settles O38: the checks of each domain in their order, before the body. -/
theorem transformChecks : Obligations.TransformChecks := by
  refine fun s => ⟨fun i hi => ?_, fun i hi => ?_⟩
  · obtain ⟨body, hexec⟩ := exec_ntt_checks hi s
    exact ⟨fun hready => exec_raise_end (hexec.trans (withNttEngine_not_ready hready body)),
      fun hready hlen => exec_raise_end (hexec.trans (withNttEngine_bad_length hready hlen body))⟩
  · obtain ⟨body, hexec⟩ := exec_fft_checks hi s
    exact ⟨fun hready => exec_raise_end (hexec.trans (withFftEngine_not_ready hready body)),
      fun hready hlen => exec_raise_end (hexec.trans (withFftEngine_bad_length hready hlen body))⟩

/-! ### The parameters of NTT.INIT -/

theorem two_le_of_isPow2 {n : Nat} (h : isPow2 n = true) : 2 ≤ n := by
  simp only [isPow2, Bool.and_eq_true, decide_eq_true_eq] at h
  exact h.1

theorem coprime_pred {q : Nat} (hq : 1 ≤ q) : Nat.Coprime (q - 1) q := by
  have hsucc : Nat.Coprime (q - 1) (q - 1 + 1) := by simp
  rwa [Nat.sub_add_cancel hq] at hsucc

/-- A number with a power of -1 is coprime to the modulus. -/
theorem coprime_of_pow_eq_pred {q n psi : Nat} (hq : 1 ≤ q) (hn : 1 ≤ n) (hpow : psi ^ n % q = q - 1) :
    Nat.Coprime psi q := by
  have hgcd : Nat.Coprime (psi ^ n) q := by
    rw [Nat.Coprime, ← Nat.mod_add_div (psi ^ n) q, hpow, Nat.gcd_add_mul_left_left]
    exact coprime_pred hq
  exact (Nat.coprime_pow_left_iff hn psi q).mp hgcd

theorem modInvCore_of_coprime {a m : Nat} (hm : 1 ≤ m) (h : Nat.Coprime a m) : ∃ r, modInvCore a m = .ok r := by
  obtain ⟨r, hr, -⟩ := modInvCore_of_gcd_eq_one (a := a) hm (by rwa [Int.gcd_natCast_natCast])
  exact ⟨r, hr⟩

theorem nttParameters_of_root_error {q n : Nat} {e : ErrorCode} (h : rootOfUnityCore q (2 * n) = .error e) :
    nttParameters q n = .error e := by
  rw [nttParameters, h]

theorem nttParameters_of_root_degenerate {q n psi : Nat} (hq : 1 ≤ q) (h : rootOfUnityCore q (2 * n) = .ok psi)
    (hpow : psi ^ n % q ≠ q - 1) : nttParameters q n = .error .rootDegenerate := by
  rw [nttParameters, h]
  exact if_pos (by rwa [powCore_natCast _ _ hq])

/-- Once the root is found and ψ^n = -1, both inverses exist: ψ is a unit, and n divides q - 1. -/
theorem exists_nttParameters {q n psi : Nat} (hq : 1 ≤ q) (hn : 1 ≤ n) (hdvd : (q - 1) % (2 * n) = 0)
    (h : rootOfUnityCore q (2 * n) = .ok psi) (hpow : psi ^ n % q = q - 1) :
    ∃ psiInv nInv, nttParameters q n = .ok (psi, psiInv, nInv) := by
  have hnq : Nat.Coprime n q :=
    (coprime_pred hq).coprime_dvd_left ((dvd_mul_left n 2).trans (Nat.dvd_of_mod_eq_zero hdvd))
  obtain ⟨psiInv, hpsiInv⟩ := modInvCore_of_coprime hq (coprime_of_pow_eq_pred hq hn hpow)
  obtain ⟨nInv, hnInv⟩ := modInvCore_of_coprime hq hnq
  refine ⟨psiInv, nInv, ?_⟩
  simp only [nttParameters, h, hpsiInv, hnInv]
  exact if_neg (by rwa [powCore_natCast _ _ hq, not_not])

/-- The parameters by the first accepted candidate, once the order divides (43_transform_engine.md R180). -/
theorem nttParameters_cases {q n : Nat} (hq : 3 ≤ q) (hn : 1 ≤ n) (hdvd : (q - 1) % (2 * n) = 0) :
    ∃ g, FirstAccepted q g ∧
      ((g ^ ((q - 1) / (2 * n)) % q) ^ n % q ≠ q - 1 → nttParameters q n = .error .rootDegenerate) ∧
      ((g ^ ((q - 1) / (2 * n)) % q) ^ n % q = q - 1 →
        ∃ psiInv nInv, nttParameters q n = .ok (g ^ ((q - 1) / (2 * n)) % q, psiInv, nInv)) := by
  obtain ⟨g, hfirst, hdegenerate, hroot⟩ := rootOfUnityCore_cases hq (show 1 ≤ 2 * n by omega) hdvd
  push_cast at hdegenerate hroot
  generalize hpsi : g ^ ((q - 1) / (2 * n)) % q = psi at hdegenerate hroot
  refine ⟨g, hfirst, fun hpow => ?_, fun hpow => ?_⟩ <;> rw [hpsi] at hpow
  · by_cases hone : psi = 1
    · exact nttParameters_of_root_error (hdegenerate hone)
    · exact nttParameters_of_root_degenerate (by omega) (hroot hone) hpow
  · have hone : psi ≠ 1 := by
      rintro rfl
      rw [one_pow, Nat.mod_eq_of_lt (by omega)] at hpow
      omega
    rw [hpsi]
    exact exists_nttParameters (by omega) hn hdvd (hroot hone) hpow

/-- Modulo a prime a root of order 2n has ψ^n = -1, the one square root of 1 besides 1. -/
theorem pow_eq_pred_of_orderOf {q n psi : Nat} (hq : q.Prime) (hn : 1 ≤ n) (horder : orderOf (psi : ZMod q) = 2 * n) :
    psi ^ n % q = q - 1 := by
  have := Fact.mk hq
  have hsquare : ((psi : ZMod q) ^ n) ^ 2 = 1 := by rw [← pow_mul, mul_comm, ← horder, pow_orderOf_eq_one]
  have hne : (psi : ZMod q) ^ n ≠ 1 := pow_ne_one_of_lt_orderOf (by omega) (by omega)
  rw [← natCast_eq_neg_one_iff hq.pos, Nat.cast_pow]
  exact (sq_eq_one_iff.mp hsquare).resolve_left hne

/-- For a prime modulus every check of the parameters passes, with a root of order exactly 2n. -/
theorem nttParameters_prime {q n : Nat} (hq : q.Prime) (hq3 : 3 ≤ q) (hn : 1 ≤ n) (hdvd : (q - 1) % (2 * n) = 0) :
    ∃ psi psiInv nInv, nttParameters q n = .ok (psi, psiInv, nInv) ∧ orderOf (psi : ZMod q) = 2 * n := by
  obtain ⟨g, hfirst, -, hok⟩ := nttParameters_cases hq3 hn hdvd
  have horder := orderOf_root_of_unity hq (hfirst.smallest hq).1 (Nat.dvd_of_mod_eq_zero hdvd)
  obtain ⟨psiInv, nInv, hparams⟩ := hok (pow_eq_pred_of_orderOf hq hn horder)
  exact ⟨_, psiInv, nInv, hparams, horder⟩

/-! ### Every way NTT.INIT ends -/

/-- The state NTT.INIT is in after the primality test: the old engine destroyed, the draws made. -/
def nttTested (s : State) : State := setGen (testPrime (sint s.opa) s).2 (releaseNtt s)

theorem exec_nttInit_invalidDegree {s : State} (h : isPow2Int (sint s.opb) = false) :
    exec .nttInit s = raise .invalidDegree (setGen s.gen (releaseNtt s)) :=
  if_pos h

theorem exec_nttInit_capacity {s : State} (hp : isPow2Int (sint s.opb) = true)
    (h : (s.config.nMax : Int) < sint s.opb) :
    exec .nttInit s = raise .capacity (setGen s.gen (releaseNtt s)) :=
  (if_neg (by simp [hp])).trans (if_pos h)

section
variable {s : State} (hp : isPow2Int (sint s.opb) = true) (hmax : sint s.opb ≤ s.config.nMax)
include hp hmax

theorem exec_nttInit_notPrime (h : (testPrime (sint s.opa) s).1 = false) :
    exec .nttInit s = raise .notPrime (nttTested s) :=
  (if_neg (by simp [hp])).trans ((if_neg (not_lt.mpr hmax)).trans (if_pos h))

theorem exec_nttInit_error (h : (testPrime (sint s.opa) s).1 = true) {e : ErrorCode}
    (he : nttParameters (sint s.opa).toNat (sint s.opb).toNat = .error e) :
    exec .nttInit s = raise e (nttTested s) := by
  refine (if_neg (by simp [hp])).trans ((if_neg (not_lt.mpr hmax)).trans ((if_neg (by simp [h])).trans ?_))
  rw [he]
  rfl

theorem exec_nttInit_ok (h : (testPrime (sint s.opa) s).1 = true) {psi psiInv nInv : Nat}
    (hok : nttParameters (sint s.opa).toNat (sint s.opb).toNat = .ok (psi, psiInv, nInv)) :
    exec .nttInit s =
      succeed (buildNtt (sint s.opa).toNat (sint s.opb).toNat psi psiInv nInv (nttTested s)) := by
  refine (if_neg (by simp [hp])).trans ((if_neg (not_lt.mpr hmax)).trans ((if_neg (by simp [h])).trans ?_))
  rw [hok]
  rfl

end

/-- A failed NTT.INIT: no engine is left, and no memory is written (60_exceptions.md R213). -/
abbrev NttInitFailed (s : State) (e : ErrorCode) (t : State) : Prop :=
  Failed e t ∧ OperandsKept s t ∧ ResultsKept s t ∧ FftKept s t ∧ MemoryKept s t ∧
    t.status.nttReady = false ∧ t.ntt = NttContext.cleared

/-- What NTT.INIT leaves alone in the registers, however it ends. -/
theorem exec_nttInit_kept {s t : State} (h : exec .nttInit s = .next t) :
    OperandsKept s t ∧ ResultsKept s t ∧ FftKept s t := by
  have hframe := exec_framed h
  exact ⟨hframe.operands, hframe.results rfl, hframe.fft (by decide) (by decide)⟩

theorem exec_nttInit_raise_end {s : State} {e : ErrorCode} {g : WitnessGen}
    (h : exec .nttInit s = raise e (setGen g (releaseNtt s))) :
    ∃ t, exec .nttInit s = .next t ∧ NttInitFailed s e t ∧ t.gen = g := by
  obtain ⟨hoperands, hresults, hfft⟩ := exec_nttInit_kept h
  exact ⟨_, h, ⟨failed_complete e _, hoperands, hresults, hfft, fun _ => rfl, rfl, rfl⟩, rfl⟩

/-- A successful NTT.INIT, in the numbers the two operands hold. -/
theorem exec_nttInit_succeed_end {s : State} {q n psi psiInv nInv : Nat} (hwf : s.mem.wf = true) (hq : sint s.opa = q)
    (hn : sint s.opb = n) (hp : isPow2 n = true) (hmax : n ≤ s.config.nMax)
    (hprime : (testPrime (sint s.opa) s).1 = true) (hok : nttParameters q n = .ok (psi, psiInv, nInv)) :
    ∃ t, exec .nttInit s = .next t ∧ Succeeded t ∧ t.gen = (testPrime (sint s.opa) s).2 ∧
      t.status.nttReady = true ∧ NttSound t ∧ uint t.ntt.q = q ∧ uint t.ntt.n = n ∧ uint t.ntt.psi = psi ∧
      ∀ a, ¬ inWords .twnFwd n a → ¬ inWords .twnInv n a → byteAt t a = byteAt s a := by
  have hq2 := two_le_of_testPrime hprime
  have hq63 := sint_lt s.opa
  have hn63 := sint_lt s.opb
  have hn2 := two_le_of_isPow2 hp
  obtain ⟨-, -, hpsi, -⟩ := nttParameters_ok (by omega) hn2 hok
  have hexec := exec_nttInit_ok (by rw [hn, isPow2Int_natCast, hp]) (by omega) hprime
    (by rw [hq, hn, Int.toNat_natCast, Int.toNat_natCast, hok])
  rw [hq, hn, Int.toNat_natCast, Int.toNat_natCast] at hexec
  have hsound : NttSound (buildNtt q n psi psiInv nInv (nttTested s)) :=
    nttSound_buildNtt hwf (by omega) (by omega) hp hmax hok
  refine ⟨_, hexec, succeeded_complete _, ?_, rfl, hsound, uint_natBits64 (by omega), uint_natBits64 (by omega),
    uint_natBits64 (by omega), fun a hfwd hinv => ?_⟩
  · simp [buildNtt, nttTested]
  · have houtside : ∀ b psi', ¬ inWords b n a →
        a < bankBase b ∨ bankBase b + 8 * (uintWords (nttTwiddles q psi' n)).length ≤ a := fun b psi' h => by
      simp only [inWords] at h
      simp only [length_uintWords, length_nttTwiddles]
      omega
    exact (readByte_bankWriteAll_other .twnInv _ (houtside _ _ hinv)).trans
      (readByte_bankWriteAll_other .twnFwd _ (houtside _ _ hfwd))

/-- Settles O33: the test passes for a prime, and so do the checks of the parameters. -/
theorem nttInitBuildsEngine : Obligations.NttInitBuildsEngine := by
  intro s q n hwf hprime hq hn hp hmax hdvd
  have hn2 := two_le_of_isPow2 hp
  have hle : 2 * n ≤ q - 1 := Nat.le_of_dvd (Nat.sub_pos_of_lt hprime.one_lt) (Nat.dvd_of_mod_eq_zero hdvd)
  obtain ⟨psi, psiInv, nInv, hok, horder⟩ := nttParameters_prime hprime (by omega) (by omega) hdvd
  obtain ⟨t, hexec, hflags, -, hready, hsound, htq, htn, htpsi, hmem⟩ :=
    exec_nttInit_succeed_end hwf hq hn hp hmax (testPrime_prime hprime hq) hok
  obtain ⟨hoperands, hresults, hfft⟩ := exec_nttInit_kept hexec
  exact ⟨t, hexec, hflags, hoperands, hresults, hfft, hready, hsound, htq, htn, by rw [htpsi, horder], hmem⟩

/-- NTT.INIT of an odd modulus from 5 and a degree that passes its checks: the run of trials, then the parameters. -/
theorem exec_nttInit_odd {s : State} {q n : Nat} (h5 : 5 ≤ q) (hodd : q % 2 = 1) (hq : sint s.opa = q)
    (hn : sint s.opb = n) (hp : isPow2 n = true) (hmax : n ≤ s.config.nMax) :
    ∃ t, exec .nttInit s = .next t ∧
      TrialRun s.mrTrials.toNat q s.gen (testPrime (sint s.opa) s).1 t.gen ∧
      ((testPrime (sint s.opa) s).1 = false → NttInitFailed s .notPrime t) ∧
      ((testPrime (sint s.opa) s).1 = true →
        (∀ e, nttParameters q n = .error e → NttInitFailed s e t) ∧
        (∀ psi psiInv nInv, nttParameters q n = .ok (psi, psiInv, nInv) → s.mem.wf = true →
          Succeeded t ∧ t.status.nttReady = true ∧ NttSound t ∧ uint t.ntt.q = q ∧ uint t.ntt.n = n ∧
            uint t.ntt.psi = psi)) := by
  have hrun := testPrime_run h5 hodd hq
  have hp' : isPow2Int (sint s.opb) = true := by rw [hn, isPow2Int_natCast, hp]
  have hmax' : sint s.opb ≤ s.config.nMax := by omega
  have hparams : nttParameters (sint s.opa).toNat (sint s.opb).toNat = nttParameters q n := by
    rw [hq, hn, Int.toNat_natCast, Int.toNat_natCast]
  cases hverdict : (testPrime (sint s.opa) s).1 with
  | false =>
    obtain ⟨t, hexec, hfailed, hgen⟩ := exec_nttInit_raise_end (exec_nttInit_notPrime hp' hmax' hverdict)
    rw [← hgen, hverdict] at hrun
    exact ⟨t, hexec, hrun, fun _ => hfailed, nofun⟩
  | true =>
    cases hresult : nttParameters q n with
    | error e =>
      obtain ⟨t, hexec, hfailed, hgen⟩ :=
        exec_nttInit_raise_end (exec_nttInit_error hp' hmax' hverdict (hparams.trans hresult))
      rw [← hgen, hverdict] at hrun
      refine ⟨t, hexec, hrun, nofun, fun _ => ⟨?_, nofun⟩⟩
      rintro _ ⟨⟩
      exact hfailed
    | ok v =>
      obtain ⟨psi, psiInv, nInv⟩ := v
      have hexec := exec_nttInit_ok hp' hmax' hverdict (hparams.trans hresult)
      have hgen : (buildNtt (sint s.opa).toNat (sint s.opb).toNat psi psiInv nInv (nttTested s)).gen =
          (testPrime (sint s.opa) s).2 := by simp [buildNtt, nttTested]
      rw [← hgen, hverdict] at hrun
      refine ⟨_, hexec, hrun, nofun, fun _ => ⟨nofun, ?_⟩⟩
      rintro _ _ _ ⟨⟩ hwf
      obtain ⟨t, hexec', hflags, -, hready, hsound, htq, htn, htpsi, -⟩ :=
        exec_nttInit_succeed_end hwf hq hn hp hmax hverdict hresult
      obtain rfl := succeed_next.mp (hexec.symm.trans hexec')
      exact ⟨hflags, hready, hsound, htq, htn, htpsi⟩

/-- Settles O34: the checks of NTT.INIT in their order, and for an odd modulus the cases of its parameters. -/
theorem nttInitChecksInOrder : Obligations.NttInitChecksInOrder := by
  intro s
  have raised : ∀ {e g}, exec .nttInit s = raise e (setGen g (releaseNtt s)) →
      ∃ t, exec .nttInit s = .next t ∧ NttInitFailed s e t := fun h => by
    obtain ⟨t, hexec, hfailed, -⟩ := exec_nttInit_raise_end h
    exact ⟨t, hexec, hfailed⟩
  simp only [← isPow2Int_iff]
  refine ⟨fun hp => raised (exec_nttInit_invalidDegree (Bool.not_eq_true _ ▸ hp)), fun hp => ⟨fun hmax =>
    raised (exec_nttInit_capacity hp hmax), fun hmax hcomposite => ?_, fun hmax q hprime hq horder => ?_⟩,
    fun q n h5 hodd hq hn hp hmax => ?_⟩
  · exact raised (exec_nttInit_notPrime hp hmax (by rw [testPrime_plainlyComposite hcomposite]))
  · have hn : ((sint s.opb).toNat : Int) = sint s.opb := by
      have hp' := (isPow2Int_iff _).mp hp
      obtain ⟨k, -, hk⟩ := hp'
      exact Int.toNat_of_nonneg (hk ▸ by positivity)
    refine raised (exec_nttInit_error hp hmax (testPrime_prime hprime hq) (nttParameters_of_root_error ?_))
    rw [hn, hq, Int.toNat_natCast]
    exact rootOfUnityCore_invalidOrder (.inr horder)
  · obtain ⟨t, hexec, hrun, hfail, hpass⟩ := exec_nttInit_odd h5 hodd hq hn hp hmax
    have hn2 := two_le_of_isPow2 hp
    refine ⟨t, _, hexec, hrun, hfail, fun hverdict horder => ?_, fun hverdict hdvd => ?_⟩
    · obtain ⟨herror, -⟩ := hpass hverdict
      refine herror _ (nttParameters_of_root_error (rootOfUnityCore_invalidOrder (.inr ?_)))
      zify [show 1 ≤ q by omega] at horder
      exact horder
    · obtain ⟨herror, hok⟩ := hpass hverdict
      obtain ⟨g, hfirst, hdegenerate, hroot⟩ := nttParameters_cases (show 3 ≤ q by omega) (show 1 ≤ n by omega) hdvd
      refine ⟨g, hfirst, fun hne => herror _ (hdegenerate hne), fun hpow hwf => ?_⟩
      obtain ⟨psiInv, nInv, hparams⟩ := hroot hpow
      exact hok _ _ _ hparams hwf

end Sys2Proof.Machine
end

section
/-! The butterfly network (43_transform_engine.md R170), for any butterfly: a stage as a function of the index, and the
network as the recursion on the even and the odd elements. -/

namespace Sys2Proof.Machine

section
variable {α ω : Type} (bf : α → α → ω → α × α)

/-! ### One stage -/

/-- One stage on a vector given by its elements: element i is the lower or the upper output of its butterfly. -/
def stageFn (tw : Nat → ω) (h : Nat) (f : Nat → α) (i : Nat) : α :=
  if i % (2 * h) < h then (bf (f i) (f (i + h)) (tw (i % (2 * h)))).1
  else (bf (f (i - h)) (f i) (tw (i % (2 * h) - h))).2

theorem stageFn_low (tw : Nat → ω) {h j : Nat} (hj : j < h) (f : Nat → α) (g : Nat) :
    stageFn bf tw h f (2 * h * g + j) = (bf (f (2 * h * g + j)) (f (2 * h * g + j + h)) (tw j)).1 := by
  have hmod : (2 * h * g + j) % (2 * h) = j := by rw [Nat.mul_add_mod, Nat.mod_eq_of_lt (by omega)]
  rw [stageFn, hmod, if_pos hj]

theorem stageFn_high (tw : Nat → ω) {h j : Nat} (hj : j < h) (f : Nat → α) (g : Nat) :
    stageFn bf tw h f (2 * h * g + j + h) = (bf (f (2 * h * g + j)) (f (2 * h * g + j + h)) (tw j)).2 := by
  have hmod : (2 * h * g + j + h) % (2 * h) = j + h := by
    rw [add_assoc, Nat.mul_add_mod, Nat.mod_eq_of_lt (by omega)]
  rw [stageFn, hmod, if_neg (by omega), Nat.add_sub_cancel, Nat.add_sub_cancel]

/-- An index of group g is one of the two of a butterfly. -/
theorem exists_butterfly {h g i : Nat} (hlo : 2 * h * g ≤ i) (hhi : i < 2 * h * (g + 1)) :
    ∃ j < h, i = 2 * h * g + j ∨ i = 2 * h * g + j + h := by
  rw [Nat.mul_succ] at hhi
  by_cases hlow : i < 2 * h * g + h
  · exact ⟨i - 2 * h * g, by omega, .inl (by omega)⟩
  · exact ⟨i - 2 * h * g - h, by omega, .inr (by omega)⟩

theorem stageFn_congr (tw : Nat → ω) {h g : Nat} {f f' : Nat → α}
    (hf : ∀ i, 2 * h * g ≤ i → f i = f' i) {i : Nat} (hlo : 2 * h * g ≤ i) (hhi : i < 2 * h * (g + 1)) :
    stageFn bf tw h f i = stageFn bf tw h f' i := by
  obtain ⟨j, hj, rfl | rfl⟩ := exists_butterfly hlo hhi
  · rw [stageFn_low bf tw hj, stageFn_low bf tw hj, hf _ (by omega), hf _ (by omega)]
  · rw [stageFn_high bf tw hj, stageFn_high bf tw hj, hf _ (by omega), hf _ (by omega)]

/-- One butterfly, on the elements x and y that stand at its two places. -/
theorem butterflyAt_map_range (w : ω) {a b n : Nat} {f : Nat → α} {x y : α} (ha : a < n) (hb : b < n) (hx : f a = x)
    (hy : f b = y) : butterflyAt bf w a b ((List.range n).map f) = (List.range n).map (fun i =>
      if i = b then (bf x y w).2 else if i = a then (bf x y w).1 else f i) := by
  refine List.ext_getElem (by simp) fun i hi hi' => ?_
  simp [butterflyAt, ha, hb, hx, hy, List.getElem_set, eq_comm]

/-- The first m butterflies of group g. -/
theorem butterflies_map_range (tw : Nat → ω) {h g n : Nat} (hn : 2 * h * (g + 1) ≤ n) (f : Nat → α) :
    ∀ m ≤ h, (List.range m).foldl (fun ys j => butterflyAt bf (tw j) (2 * h * g + j) (2 * h * g + j + h) ys)
        ((List.range n).map f) =
      (List.range n).map (fun i =>
        if (2 * h * g ≤ i ∧ i < 2 * h * g + m) ∨ (2 * h * g + h ≤ i ∧ i < 2 * h * g + h + m)
        then stageFn bf tw h f i else f i)
  | 0, _ => by
    refine List.map_congr_left fun i _ => (if_neg ?_).symm
    omega
  | m + 1, hm => by
    rw [Nat.mul_succ] at hn
    rw [List.range_succ, List.foldl_append, butterflies_map_range tw (by omega) f m (by omega), List.foldl_cons,
      List.foldl_nil,
      butterflyAt_map_range bf _ (by omega) (by omega) (if_neg (by omega)) (if_neg (by omega))]
    refine List.map_congr_left fun i _ => ?_
    by_cases hhigh : i = 2 * h * g + m + h
    · rw [if_pos hhigh, if_pos (by omega), hhigh, stageFn_high bf tw (by omega)]
    · rw [if_neg hhigh]
      by_cases hlow : i = 2 * h * g + m
      · rw [if_pos hlow, if_pos (by omega), hlow, stageFn_low bf tw (by omega)]
      · rw [if_neg hlow]
        exact if_congr (by omega) rfl rfl

theorem groupPass_map_range (tw : Nat → ω) {h g n : Nat} (hn : 2 * h * (g + 1) ≤ n) (f : Nat → α) :
    groupPass bf tw h (2 * h * g) ((List.range n).map f) =
      (List.range n).map (fun i => if 2 * h * g ≤ i ∧ i < 2 * h * (g + 1) then stageFn bf tw h f i else f i) := by
  rw [groupPass, butterflies_map_range bf tw hn f h (le_refl h)]
  refine List.map_congr_left fun i _ => if_congr ?_ rfl rfl
  rw [Nat.mul_succ]
  omega

/-- The first m groups of a stage: the groups do not overlap, so each works on the elements before the stage. -/
theorem groups_map_range (tw : Nat → ω) {h n : Nat} (f : Nat → α) : ∀ m, 2 * h * m ≤ n →
    (List.range m).foldl (fun ys g => groupPass bf tw h (2 * h * g) ys) ((List.range n).map f) =
      (List.range n).map (fun i => if i < 2 * h * m then stageFn bf tw h f i else f i)
  | 0, _ => List.map_congr_left fun i _ => (if_neg (by omega)).symm
  | m + 1, hm => by
    have hsucc : 2 * h * (m + 1) = 2 * h * m + 2 * h := Nat.mul_succ _ _
    rw [List.range_succ, List.foldl_append, groups_map_range tw f m (by omega), List.foldl_cons, List.foldl_nil,
      groupPass_map_range bf tw hm]
    refine List.map_congr_left fun i _ => ?_
    by_cases hgroup : 2 * h * m ≤ i ∧ i < 2 * h * (m + 1)
    · obtain ⟨hlo, hhi⟩ := hgroup
      rw [if_pos ⟨hlo, hhi⟩, if_pos hhi]
      exact stageFn_congr bf tw (fun j hj => if_neg (by omega)) hlo hhi
    · rw [if_neg hgroup]
      exact if_congr (by omega) rfl rfl

theorem stagePass_map_range (tw : Nat → ω) {h : Nat} (hh : 0 < h) (m : Nat) (f : Nat → α) :
    stagePass bf tw (2 * h * m) h ((List.range (2 * h * m)).map f) =
      (List.range (2 * h * m)).map (stageFn bf tw h f) := by
  rw [stagePass, Nat.mul_div_cancel_left m (by omega), groups_map_range bf tw f m (le_refl _)]
  exact List.map_congr_left fun i hi => if_pos (List.mem_range.mp hi)

/-! ### The network as a recursion -/

/-- Decimation in time on 2^l elements: the butterflies, with the twiddles of stage l, of the results for the even and
for the odd elements (43_transform_engine.md R170). -/
def dit (tw : Nat → Nat → ω) : Nat → (Nat → α) → Nat → α
  | 0, f, _ => f 0
  | l + 1, f, k =>
    if k < 2 ^ l then (bf (dit tw l (fun i => f (2 * i)) k) (dit tw l (fun i => f (2 * i + 1)) k) (tw l k)).1
    else (bf (dit tw l (fun i => f (2 * i)) (k - 2 ^ l)) (dit tw l (fun i => f (2 * i + 1)) (k - 2 ^ l))
      (tw l (k - 2 ^ l))).2

theorem dit_low (tw : Nat → Nat → ω) {l k : Nat} (hk : k < 2 ^ l) (f : Nat → α) : dit bf tw (l + 1) f k =
    (bf (dit bf tw l (fun i => f (2 * i)) k) (dit bf tw l (fun i => f (2 * i + 1)) k) (tw l k)).1 :=
  if_pos hk

theorem dit_high (tw : Nat → Nat → ω) (l k : Nat) (f : Nat → α) : dit bf tw (l + 1) f (k + 2 ^ l) =
    (bf (dit bf tw l (fun i => f (2 * i)) k) (dit bf tw l (fun i => f (2 * i + 1)) k) (tw l k)).2 := by
  rw [dit, if_neg (by omega), Nat.add_sub_cancel]

/-- An index below 2^(l + 1) is one of the two outputs of a butterfly of stage l. -/
theorem lt_or_exists_add {l k : Nat} (hk : k < 2 ^ (l + 1)) : k < 2 ^ l ∨ ∃ k' < 2 ^ l, k = k' + 2 ^ l := by
  rw [pow_succ] at hk
  by_cases hlow : k < 2 ^ l
  · exact .inl hlow
  · exact .inr ⟨k - 2 ^ l, by omega, by omega⟩

/-- The recursion uses the 2^l elements and, of each stage s below l, the first 2^s twiddles. -/
theorem dit_congr {tw tw' : Nat → Nat → ω} : ∀ {l : Nat} {f f' : Nat → α} {k : Nat},
    (∀ s < l, ∀ j < 2 ^ s, tw s j = tw' s j) → (∀ i < 2 ^ l, f i = f' i) → k < 2 ^ l →
    dit bf tw l f k = dit bf tw' l f' k
  | 0, f, f', k, _, hf, _ => hf 0 (by simp)
  | l + 1, f, f', k, htw, hf, hk => by
    have hpow : 2 ^ (l + 1) = 2 * 2 ^ l := by rw [pow_succ, mul_comm]
    have heven : ∀ k < 2 ^ l, dit bf tw l (fun i => f (2 * i)) k = dit bf tw' l (fun i => f' (2 * i)) k :=
      fun k hk => dit_congr (fun s hs => htw s (by omega)) (fun i hi => hf _ (by omega)) hk
    have hodd : ∀ k < 2 ^ l, dit bf tw l (fun i => f (2 * i + 1)) k = dit bf tw' l (fun i => f' (2 * i + 1)) k :=
      fun k hk => dit_congr (fun s hs => htw s (by omega)) (fun i hi => hf _ (by omega)) hk
    rcases lt_or_exists_add hk with hlow | ⟨k', hlow, rfl⟩
    · rw [dit_low bf tw hlow, dit_low bf tw' hlow, heven k hlow, hodd k hlow, htw l (by omega) k hlow]
    · rw [dit_high, dit_high, heven k' hlow, hodd k' hlow, htw l (by omega) k' hlow]

/-- A map that takes one butterfly to another takes the recursion to the recursion. -/
theorem map_dit {β ω' : Type} {bf : α → α → ω → α × α} {bf' : β → β → ω' → β × β} {φ : α → β} {ψ : ω → ω'}
    (hbf : ∀ e o t, bf' (φ e) (φ o) (ψ t) = (φ (bf e o t).1, φ (bf e o t).2)) (tw : Nat → Nat → ω) :
    ∀ (l : Nat) (f : Nat → α) (k : Nat),
      φ (dit bf tw l f k) = dit bf' (fun s j => ψ (tw s j)) l (fun i => φ (f i)) k
  | 0, _, _ => rfl
  | l + 1, f, k => by
    simp only [dit, ← map_dit hbf tw l, hbf]
    split <;> rfl

end

/-! ### The index of the bit-reversal pre-pass -/

theorem brev_two_mul (v : Nat) : ∀ w, brev (2 * v) (w + 1) = brev v w
  | 0 => by simp [brev]
  | w + 1 => by
    rw [brev, brev_two_mul v w, brev]
    simp [Nat.testBit_succ]

theorem brev_two_mul_add_one (v : Nat) : ∀ w, brev (2 * v + 1) (w + 1) = 2 ^ w + brev v w
  | 0 => by simp [brev]
  | w + 1 => by
    have hbit : (2 * v + 1).testBit (w + 1) = v.testBit w := by
      rw [Nat.testBit_succ]
      congr 1
      omega
    rw [brev, brev_two_mul_add_one v w, brev, hbit, pow_succ]
    ring

theorem bitRevPermute_map_range {α : Type} [Inhabited α] (l : Nat) (f : Nat → α) :
    bitRevPermute ((List.range (2 ^ l)).map f) = (List.range (2 ^ l)).map (fun i => f (brev i l)) := by
  rw [bitRevPermute, List.length_map, List.length_range, Nat.log2_two_pow]
  refine List.map_congr_left fun i _ => ?_
  rw [List.getD_eq_getElem _ _ (by simpa using brev_lt i l)]
  simp

section
variable {α ω : Type} (bf : α → α → ω → α × α)

/-- Element i after stage s - 1, when m stages are left: in the blocks of 2^s elements stands the recursion on the
elements whose index has the reversed number of the block in its low m bits. -/
def blockFn (tw : Nat → Nat → ω) (f : Nat → α) (s m i : Nat) : α :=
  dit bf tw s (fun j => f (2 ^ m * j + brev (i / 2 ^ s) m)) (i % 2 ^ s)

theorem blockFn_block (tw : Nat → Nat → ω) (f : Nat → α) {s r : Nat} (m b : Nat) (hr : r < 2 ^ s) :
    blockFn bf tw f s m (2 ^ s * b + r) = dit bf tw s (fun j => f (2 ^ m * j + brev b m)) r := by
  have hdiv : (2 ^ s * b + r) / 2 ^ s = b := by
    rw [Nat.mul_add_div (by positivity), Nat.div_eq_of_lt hr, Nat.add_zero]
  rw [blockFn, hdiv, Nat.mul_add_mod, Nat.mod_eq_of_lt hr]

/-- Stage s joins blocks 2b and 2b + 1, which hold the even and the odd elements of block b of the next size. -/
theorem stageFn_blockFn (tw : Nat → Nat → ω) (f : Nat → α) (s m i : Nat) :
    stageFn bf (tw s) (2 ^ s) (blockFn bf tw f s (m + 1)) i = blockFn bf tw f (s + 1) m i := by
  obtain ⟨r, hr, hi⟩ := exists_butterfly (Nat.mul_div_le i (2 * 2 ^ s)) (Nat.lt_mul_div_succ i (by positivity))
  generalize i / (2 * 2 ^ s) = b at hi
  have hsize : 2 ^ (s + 1) = 2 * 2 ^ s := by rw [pow_succ, mul_comm]
  have heven : blockFn bf tw f s (m + 1) (2 * 2 ^ s * b + r) =
      dit bf tw s (fun j => f (2 ^ m * (2 * j) + brev b m)) r := by
    rw [show 2 * 2 ^ s * b + r = 2 ^ s * (2 * b) + r by ring, blockFn_block bf tw f _ _ hr, brev_two_mul]
    congr! 3 with j
    ring
  have hodd : blockFn bf tw f s (m + 1) (2 * 2 ^ s * b + r + 2 ^ s) =
      dit bf tw s (fun j => f (2 ^ m * (2 * j + 1) + brev b m)) r := by
    rw [show 2 * 2 ^ s * b + r + 2 ^ s = 2 ^ s * (2 * b + 1) + r by ring, blockFn_block bf tw f _ _ hr,
      brev_two_mul_add_one]
    congr! 3 with j
    ring
  rcases hi with rfl | rfl
  · rw [stageFn_low bf _ hr, heven, hodd, ← hsize, blockFn_block bf tw f _ _ (by omega), dit_low bf tw hr]
  · rw [stageFn_high bf _ hr, heven, hodd, ← hsize, add_assoc, blockFn_block bf tw f _ _ (by omega), dit_high]

variable [Inhabited α]

theorem stages_map_range (tw : Nat → Nat → ω) {l : Nat} (f : Nat → α) : ∀ s m, s + m = l →
    (List.range s).foldl (fun ys s => stagePass bf (tw s) (2 ^ l) (2 ^ s) ys)
        (bitRevPermute ((List.range (2 ^ l)).map f)) =
      (List.range (2 ^ l)).map (blockFn bf tw f s m)
  | 0, m, hl => by
    obtain rfl : m = l := by omega
    simp [bitRevPermute_map_range, blockFn, dit]
  | s + 1, m, hl => by
    have hsize : 2 ^ l = 2 * 2 ^ s * 2 ^ m := by rw [← hl, pow_add, pow_succ]; ring
    rw [List.range_succ, List.foldl_append, stages_map_range tw f s (m + 1) (by omega), List.foldl_cons, List.foldl_nil,
      hsize, stagePass_map_range bf _ (by positivity)]
    exact List.map_congr_left fun i _ => stageFn_blockFn bf tw f s m i

/-- The network on 2^l elements is the recursion (43_transform_engine.md R170). -/
theorem network_map_range [Inhabited ω] (tidx : Nat → Nat → Nat → Nat) (ws : List ω) (l : Nat) (f : Nat → α) :
    network bf tidx ws ((List.range (2 ^ l)).map f) =
      (List.range (2 ^ l)).map (dit bf (fun s j => ws.getD (tidx j s (2 ^ l)) default) l f) := by
  rw [network, List.length_map, List.length_range, Nat.log2_two_pow, stages_map_range bf _ f l 0 (by omega)]
  refine List.map_congr_left fun i hi => ?_
  have hblock := blockFn_block bf (fun s j => ws.getD (tidx j s (2 ^ l)) default) f 0 0 (List.mem_range.mp hi)
  simpa [brev] using hblock

end

/-- A vector is given by its elements. -/
theorem eq_map_range_getD {α : Type} [Inhabited α] (xs : List α) :
    xs = (List.range xs.length).map (fun i => xs.getD i default) := by
  refine List.ext_getElem (by simp) fun i hi hi' => ?_
  simp [hi]

theorem getElem?_network {α ω : Type} [Inhabited α] [Inhabited ω] (bf : α → α → ω → α × α)
    (tidx : Nat → Nat → Nat → Nat) (ws : List ω) {l : Nat} {xs : List α} (hlen : xs.length = 2 ^ l) {k : Nat}
    (hk : k < 2 ^ l) : (network bf tidx ws xs)[k]? =
      some (dit bf (fun s j => ws.getD (tidx j s (2 ^ l)) default) l (fun i => xs.getD i default) k) := by
  have hvector := eq_map_range_getD xs
  rw [hlen] at hvector
  conv_lhs => rw [hvector, network_map_range]
  simp [hk]

/-! ### The network with the FFT index -/

theorem tidxFft_last (j l : Nat) : tidxFft j l (2 ^ (l + 1)) = j := by simp [tidxFft]

/-- Before the last stage, the twiddles are those of the half as long network on the even entries of the table. -/
theorem tidxFft_succ {s l : Nat} (hs : s < l) (j : Nat) : tidxFft j s (2 ^ (l + 1)) = 2 * tidxFft j s (2 ^ l) := by
  have hdouble : 2 ^ (l + 1 - (s + 1)) = 2 * 2 ^ (l - (s + 1)) := by rw [← pow_succ']; congr 1; omega
  rw [tidxFft, tidxFft, Nat.pow_div (by omega) (by decide), Nat.pow_div (by omega) (by decide), hdouble]
  ring

theorem tidxFft_lt {s l j : Nat} (hs : s < l) (hj : j < 2 ^ s) : tidxFft j s (2 ^ l) < 2 ^ l := by
  rw [tidxFft, Nat.pow_div (by omega) (by decide)]
  calc j * 2 ^ (l - (s + 1)) < 2 ^ s * 2 ^ (l - (s + 1)) := Nat.mul_lt_mul_of_pos_right hj (by positivity)
    _ = 2 ^ (l - 1) := by rw [← pow_add]; congr 1; omega
    _ ≤ 2 ^ l := Nat.pow_le_pow_right (by decide) (by omega)

theorem getD_everyOther {α : Type} [Inhabited α] (b : Nat) {n i : Nat} (hi : i < n) (xs : List α) :
    (everyOther b n xs).getD i default = xs.getD (2 * i + b) default := by
  simp [everyOther, hi]

/-- The network with the FFT index on 2^(l + 1) elements, by its two halves (43_transform_engine.md R175). -/
theorem network_tidxFft_halves {α ω : Type} [Inhabited α] [Inhabited ω] (bf : α → α → ω → α × α) (ws : List ω) {l : Nat}
    {xs : List α} (hlen : xs.length = 2 ^ (l + 1)) {k : Nat} (hk : k < 2 ^ l) :
    let half (b : Nat) := network bf tidxFft (everyOther 0 (2 ^ l) ws) (everyOther b (2 ^ l) xs)
    let r := bf ((half 0).getD k default) ((half 1).getD k default) (ws.getD k default)
    (network bf tidxFft ws xs)[k]? = some r.1 ∧ (network bf tidxFft ws xs)[k + 2 ^ l]? = some r.2 := by
  have hhalf : ∀ b, (network bf tidxFft (everyOther 0 (2 ^ l) ws) (everyOther b (2 ^ l) xs)).getD k default =
      dit bf (fun s j => ws.getD (tidxFft j s (2 ^ (l + 1))) default) l (fun i => xs.getD (2 * i + b) default) k := by
    intro b
    rw [List.getD_eq_getElem?_getD, getElem?_network bf _ _ (by simp [everyOther]) hk, Option.getD_some]
    refine dit_congr bf (fun s hs j hj => ?_) (fun i hi => getD_everyOther b hi xs) hk
    rw [getD_everyOther 0 (tidxFft_lt hs hj), tidxFft_succ hs, Nat.add_zero]
  have hlow : k < 2 ^ (l + 1) := by rw [pow_succ]; omega
  have hhigh : k + 2 ^ l < 2 ^ (l + 1) := by rw [pow_succ]; omega
  simp only [hhalf]
  rw [getElem?_network bf _ _ hlen hlow, getElem?_network bf _ _ hlen hhigh, dit_low bf _ hk, dit_high, tidxFft_last]
  exact ⟨rfl, rfl⟩

end Sys2Proof.Machine
end

section
/-! The discrete Fourier transform over a commutative ring (43_transform_engine.md R182 to R188): the network computes
it, and the powers of the inverse root undo it. The root is a w with w^(2^l) = -1, and the length is 2^(l + 1). -/

namespace Sys2Proof.Machine

section
variable {R : Type} [CommRing R]

/-! ### The recursion computes the transform -/

/-- The butterfly of R174 and of R171, exactly. -/
def ringButterfly (e o t : R) : R × R := (e + t * o, e - t * o)

theorem sum_range_two_mul (g : Nat → R) (n : Nat) :
    ∑ i ∈ Finset.range (2 * n), g i = ∑ i ∈ Finset.range n, g (2 * i) + ∑ i ∈ Finset.range n, g (2 * i + 1) := by
  induction n with
  | zero => simp
  | succ n ih =>
    rw [Nat.mul_succ, Finset.sum_range_succ, Finset.sum_range_succ, ih, Finset.sum_range_succ, Finset.sum_range_succ]
    abel

/-- The lower outputs of the last stage, from the transforms of the even and of the odd elements with the root v². -/
theorem dft_low (v : R) (n k : Nat) (f : Nat → R) :
    ∑ j ∈ Finset.range n, f (2 * j) * v ^ (2 * (j * k)) +
        v ^ k * ∑ j ∈ Finset.range n, f (2 * j + 1) * v ^ (2 * (j * k)) =
      ∑ j ∈ Finset.range (2 * n), f j * v ^ (j * k) := by
  rw [sum_range_two_mul, Finset.mul_sum]
  congr 1 <;> refine Finset.sum_congr rfl fun j _ => ?_ <;> ring

/-- The upper outputs, n further, when v^n = -1. -/
theorem dft_high {v : R} {n : Nat} (hv : v ^ n = -1) (k : Nat) (f : Nat → R) :
    ∑ j ∈ Finset.range n, f (2 * j) * v ^ (2 * (j * k)) -
        v ^ k * ∑ j ∈ Finset.range n, f (2 * j + 1) * v ^ (2 * (j * k)) =
      ∑ j ∈ Finset.range (2 * n), f j * v ^ (j * (k + n)) := by
  have hshift : ∀ j, v ^ (j * (k + n)) = v ^ (j * k) * (-1) ^ j := fun j => by rw [← hv]; ring
  rw [sum_range_two_mul, Finset.mul_sum, sub_eq_add_neg, ← Finset.sum_neg_distrib]
  congr 1 <;> refine Finset.sum_congr rfl fun j _ => ?_
  · rw [hshift, pow_mul (-1 : R), neg_one_sq, one_pow]
    ring
  · rw [hshift, pow_succ (-1 : R), pow_mul (-1 : R), neg_one_sq, one_pow]
    ring

/-- The recursion with the powers of w as twiddles is the transform with the root of its length (R172, R175). -/
theorem dit_ringButterfly {w : R} {m : Nat} (hw : w ^ 2 ^ (m - 1) = -1) {tw : Nat → Nat → R}
    (htw : ∀ s < m, ∀ j < 2 ^ s, tw s j = w ^ (j * 2 ^ (m - (s + 1)))) :
    ∀ l ≤ m, ∀ (f : Nat → R) (k : Nat), k < 2 ^ l →
      dit ringButterfly tw l f k = ∑ j ∈ Finset.range (2 ^ l), f j * (w ^ 2 ^ (m - l)) ^ (j * k)
  | 0, _, f, k, hk => by
    obtain rfl : k = 0 := by simpa using hk
    simp [dit]
  | l + 1, hl, f, k, hk => by
    have hroot : (w ^ 2 ^ (m - (l + 1))) ^ 2 ^ l = -1 := by
      rw [← pow_mul, ← pow_add, ← hw]
      congr 2
      omega
    have htwiddle : ∀ k < 2 ^ l, tw l k = (w ^ 2 ^ (m - (l + 1))) ^ k := fun k hk => by
      rw [htw l hl k hk, ← pow_mul, mul_comm]
    have hsquare : ∀ e, (w ^ 2 ^ (m - l)) ^ e = (w ^ 2 ^ (m - (l + 1))) ^ (2 * e) := fun e => by
      have hexp : m - l = m - (l + 1) + 1 := by omega
      rw [hexp, pow_succ, pow_mul w, pow_mul _ 2 e]
    have hhalf := fun g k hk => dit_ringButterfly hw htw l (by omega) g k hk
    simp only [hsquare] at hhalf
    rw [pow_succ']
    rcases lt_or_exists_add hk with hlow | ⟨k, hlow, rfl⟩
    · rw [dit_low _ _ hlow, ringButterfly, hhalf _ k hlow, hhalf _ k hlow, htwiddle k hlow]
      exact dft_low _ _ k f
    · rw [dit_high, ringButterfly, hhalf _ k hlow, hhalf _ k hlow, htwiddle k hlow]
      exact dft_high hroot k f

/-! ### Orthogonality and inversion -/

/-- The geometric sum over 2^m powers has a factor 1 + v^(2^a) for each a below m. -/
theorem sum_pow_eq_zero {v : R} {a : Nat} (hv : v ^ 2 ^ a = -1) :
    ∀ m, a < m → ∑ k ∈ Finset.range (2 ^ m), v ^ k = 0
  | m + 1, ha => by
    have hfactor : ∑ k ∈ Finset.range (2 ^ (m + 1)), v ^ k = (1 + v ^ 2 ^ m) * ∑ k ∈ Finset.range (2 ^ m), v ^ k := by
      rw [pow_succ, mul_two, Finset.sum_range_add, add_mul, one_mul, Finset.mul_sum]
      simp only [pow_add]
    rcases Nat.lt_succ_iff_lt_or_eq.mp ha with hlt | rfl
    · rw [hfactor, sum_pow_eq_zero hv m hlt, mul_zero]
    · rw [hfactor, hv, add_neg_cancel, zero_mul]

/-- A power of w below 2^(l + 1) has itself a power of -1. -/
theorem exists_pow_two_pow_eq_neg_one {w : R} {l d : Nat} (hw : w ^ 2 ^ l = -1) (hpos : 0 < d) (hd : d < 2 ^ (l + 1)) :
    ∃ a < l + 1, (w ^ d) ^ 2 ^ a = -1 := by
  obtain ⟨b, c, hodd, rfl⟩ := Nat.exists_eq_two_pow_mul_odd hpos.ne'
  have hb : b < l + 1 :=
    (Nat.pow_lt_pow_iff_right (by decide : 1 < 2)).mp ((Nat.le_mul_of_pos_right _ hodd.pos).trans_lt hd)
  refine ⟨l - b, by omega, ?_⟩
  calc (w ^ (2 ^ b * c)) ^ 2 ^ (l - b) = (w ^ (2 ^ b * 2 ^ (l - b))) ^ c := by ring
    _ = (w ^ 2 ^ l) ^ c := by rw [← pow_add, Nat.add_sub_cancel' (by omega)]
    _ = -1 := by rw [hw, hodd.neg_one_pow]

theorem inverse_pow_eq_neg_one {w w' : R} {n : Nat} (hinv : w * w' = 1) (hw : w ^ n = -1) : w' ^ n = -1 := by
  have hone : w ^ n * w' ^ n = 1 := by rw [← mul_pow, hinv, one_pow]
  rw [hw, neg_one_mul] at hone
  exact neg_eq_iff_eq_neg.mp hone

theorem sum_pow_mul_pow_of_lt {w w' : R} {l i j : Nat} (hinv : w * w' = 1) (hw : w ^ 2 ^ l = -1) (hij : i < j)
    (hj : j < 2 ^ (l + 1)) : ∑ k ∈ Finset.range (2 ^ (l + 1)), w ^ (j * k) * w' ^ (k * i) = 0 := by
  obtain ⟨d, rfl⟩ := Nat.exists_eq_add_of_lt hij
  obtain ⟨a, ha, hpow⟩ := exists_pow_two_pow_eq_neg_one (d := d + 1) hw (by omega) (by omega)
  rw [← sum_pow_eq_zero hpow (l + 1) ha]
  refine Finset.sum_congr rfl fun k _ => ?_
  calc w ^ ((i + d + 1) * k) * w' ^ (k * i) = (w ^ (d + 1)) ^ k * (w * w') ^ (i * k) := by ring
    _ = (w ^ (d + 1)) ^ k := by rw [hinv, one_pow, mul_one]

/-- Orthogonality of the powers of a root and of its inverse. -/
theorem sum_pow_mul_pow {w w' : R} {l i j : Nat} (hinv : w * w' = 1) (hw : w ^ 2 ^ l = -1) (hi : i < 2 ^ (l + 1))
    (hj : j < 2 ^ (l + 1)) :
    ∑ k ∈ Finset.range (2 ^ (l + 1)), w ^ (j * k) * w' ^ (k * i) = if j = i then 2 ^ (l + 1) else 0 := by
  rcases lt_trichotomy i j with hlt | rfl | hgt
  · rw [if_neg hlt.ne', sum_pow_mul_pow_of_lt hinv hw hlt hj]
  · have hterm : ∀ k ∈ Finset.range (2 ^ (l + 1)), w ^ (i * k) * w' ^ (k * i) = 1 := fun k _ => by
      rw [mul_comm k i, ← mul_pow, hinv, one_pow]
    rw [if_pos rfl, Finset.sum_congr rfl hterm]
    simp
  · rw [if_neg hgt.ne, ← sum_pow_mul_pow_of_lt ((mul_comm w' w).trans hinv) (inverse_pow_eq_neg_one hinv hw) hgt hi]
    refine Finset.sum_congr rfl fun k _ => ?_
    rw [mul_comm, mul_comm k i, mul_comm j k]

/-- The transform with the inverse root undoes the transform, up to the length (43_transform_engine.md R188). -/
theorem dft_inversion {w w' : R} {l i : Nat} (hinv : w * w' = 1) (hw : w ^ 2 ^ l = -1) (hi : i < 2 ^ (l + 1))
    (f : Nat → R) :
    ∑ k ∈ Finset.range (2 ^ (l + 1)), (∑ j ∈ Finset.range (2 ^ (l + 1)), f j * w ^ (j * k)) * w' ^ (k * i) =
      2 ^ (l + 1) * f i := by
  calc ∑ k ∈ Finset.range (2 ^ (l + 1)), (∑ j ∈ Finset.range (2 ^ (l + 1)), f j * w ^ (j * k)) * w' ^ (k * i)
      = ∑ j ∈ Finset.range (2 ^ (l + 1)), f j * ∑ k ∈ Finset.range (2 ^ (l + 1)), w ^ (j * k) * w' ^ (k * i) := by
        simp only [Finset.sum_mul, Finset.mul_sum]
        rw [Finset.sum_comm]
        simp only [mul_assoc]
    _ = ∑ j ∈ Finset.range (2 ^ (l + 1)), f j * if j = i then 2 ^ (l + 1) else 0 :=
        Finset.sum_congr rfl fun j hj => by rw [sum_pow_mul_pow hinv hw hi (Finset.mem_range.mp hj)]
    _ = 2 ^ (l + 1) * f i := by simp [hi, mul_comm]

/-! ### The network on a table of powers -/

theorem tidxFft_eq {s l : Nat} (hs : s < l) (j : Nat) : tidxFft j s (2 ^ l) = j * 2 ^ (l - (s + 1)) := by
  rw [tidxFft, Nat.pow_div (by omega) (by decide)]

theorem getD_map_range {α : Type} (g : Nat → α) {n k : Nat} (hk : k < n) (d : α) :
    ((List.range n).map g).getD k d = g k := by
  simp [hk]

variable [Inhabited R]

theorem getElem?_network_powers {w : R} {l : Nat} (hw : w ^ 2 ^ l = -1) {xs : List R} (hlen : xs.length = 2 ^ (l + 1))
    {k : Nat} (hk : k < 2 ^ (l + 1)) :
    (network ringButterfly tidxFft ((List.range (2 ^ (l + 1))).map (fun i => w ^ i)) xs)[k]? =
      some (∑ j ∈ Finset.range (2 ^ (l + 1)), xs.getD j default * w ^ (j * k)) := by
  rw [getElem?_network _ _ _ hlen hk,
    dit_ringButterfly (m := l + 1) hw (fun s hs j hj => ?_) (l + 1) (le_refl _) _ k hk]
  · simp
  · rw [getD_map_range _ (tidxFft_lt hs hj), tidxFft_eq hs]

theorem network_powers_inversion {w w' : R} {l : Nat} (hw : w ^ 2 ^ l = -1) (hinv : w * w' = 1) {xs : List R}
    (hlen : xs.length = 2 ^ (l + 1)) :
    network ringButterfly tidxFft ((List.range (2 ^ (l + 1))).map (fun i => w' ^ i))
        (network ringButterfly tidxFft ((List.range (2 ^ (l + 1))).map (fun i => w ^ i)) xs) =
      xs.map (fun x => 2 ^ (l + 1) * x) := by
  refine List.ext_getElem? fun i => ?_
  by_cases hi : i < 2 ^ (l + 1)
  · rw [getElem?_network_powers (inverse_pow_eq_neg_one hinv hw) ((length_network ..).trans hlen) hi]
    have hsum : ∀ k ∈ Finset.range (2 ^ (l + 1)),
        (network ringButterfly tidxFft ((List.range (2 ^ (l + 1))).map (fun i => w ^ i)) xs).getD k default *
            w' ^ (k * i) =
          (∑ j ∈ Finset.range (2 ^ (l + 1)), xs.getD j default * w ^ (j * k)) * w' ^ (k * i) := fun k hk => by
      rw [List.getD_eq_getElem?_getD, getElem?_network_powers hw hlen (Finset.mem_range.mp hk), Option.getD_some]
    rw [Finset.sum_congr rfl hsum, dft_inversion hinv hw hi]
    simp [hlen, hi]
  · rw [List.getElem?_eq_none (by simp only [length_network]; omega), List.getElem?_eq_none (by simp; omega)]

end

end Sys2Proof.Machine
end

section
/-! The commands of the FFT domain (43_transform_engine.md R178, R181, R185, R186): FFT.INIT with its tables, and
FFT.FWD. -/

namespace Sys2Proof.Machine

/-! ### The tables of repeated products (43_transform_engine.md R181) -/

theorem getElem?_fftTwiddlesFrom_zero (w t : Cplx) {n : Nat} (hn : 0 < n) : (fftTwiddlesFrom w n t)[0]? = some t := by
  obtain ⟨m, rfl⟩ := Nat.exists_eq_succ_of_ne_zero hn.ne'
  rfl

theorem getElem?_fftTwiddlesFrom_succ (w : Cplx) : ∀ (n : Nat) (t : Cplx) (k : Nat), k + 1 < n →
    (fftTwiddlesFrom w n t)[k + 1]? = (fftTwiddlesFrom w n t)[k]?.map (fun x => cmul x w)
  | n + 1, t, 0, hk => getElem?_fftTwiddlesFrom_zero w (cmul t w) (by omega)
  | n + 1, t, k + 1, hk => getElem?_fftTwiddlesFrom_succ w n (cmul t w) k (by omega)

theorem getElem?_loadPairs (b : Bank) {n k : Nat} (hk : k < n) (s : State) :
    (loadPairs b n s)[k]? = some ⟨bankRead b (2 * k) s, bankRead b (2 * k + 1) s⟩ := by
  simp [loadPairs, hk]

/-- A memory that holds the table of w: the first element is 1, and each further one is the one before times w. -/
theorem powers_of_loadPairs {b : Bank} {n : Nat} {w : Cplx} {t : State} (hn : 0 < n)
    (h : loadPairs b n t = fftTwiddles w n) :
    bankRead b 0 t = 0x3FF0000000000000 ∧ bankRead b 1 t = 0 ∧
      ∀ k, k + 1 < n → (⟨bankRead b (2 * (k + 1)) t, bankRead b (2 * (k + 1) + 1) t⟩ : Cplx) =
        cmul ⟨bankRead b (2 * k) t, bankRead b (2 * k + 1) t⟩ w := by
  have hword : ∀ k < n, (fftTwiddles w n)[k]? = some ⟨bankRead b (2 * k) t, bankRead b (2 * k + 1) t⟩ :=
    fun k hk => h ▸ getElem?_loadPairs b hk t
  have hfirst := (hword 0 hn).symm.trans (getElem?_fftTwiddlesFrom_zero w _ hn)
  rw [Option.some.injEq, Cplx.mk.injEq] at hfirst
  refine ⟨hfirst.1, hfirst.2, fun k hk => ?_⟩
  have hnext := getElem?_fftTwiddlesFrom_succ w n ⟨0x3FF0000000000000, 0x0000000000000000⟩ k hk
  rw [← fftTwiddles, hword (k + 1) hk, hword k (by omega)] at hnext
  exact Option.some.inj hnext

/-! ### FFT.INIT -/

theorem exec_fftInit_invalidDegree {s : State} (h : isPow2Int (sint s.opb) = false) :
    exec .fftInit s = raise .invalidDegree (releaseFft s) :=
  if_pos h

theorem exec_fftInit_capacity {s : State} (hp : isPow2Int (sint s.opb) = true)
    (h : (s.config.nMax : Int) < sint s.opb) :
    exec .fftInit s = raise .capacity (releaseFft s) :=
  (if_neg (by simp [hp])).trans (if_pos h)

theorem exec_fftInit_ok {s : State} {n : Nat} (hn : sint s.opb = n) (hp : isPow2 n = true) (hmax : n ≤ s.config.nMax) :
    exec .fftInit s = succeed (buildFft n (releaseFft s)) := by
  have hp' : isPow2Int (sint s.opb) = true := by rw [hn, isPow2Int_natCast, hp]
  refine (if_neg (by simp [hp'])).trans ((if_neg (by omega)).trans ?_)
  rw [hn, Int.toNat_natCast]

/-- What FFT.INIT leaves alone, however it ends. -/
theorem exec_fftInit_kept {s t : State} (h : exec .fftInit s = .next t) :
    OperandsKept s t ∧ ResultsKept s t ∧ NttKept s t ∧ t.gen = s.gen := by
  have hframe := exec_framed h
  exact ⟨hframe.operands, hframe.results rfl, hframe.ntt (by decide) (by decide), hframe.gen rfl⟩

/-- A failed FFT.INIT leaves no engine and writes no memory (60_exceptions.md R213). -/
theorem exec_fftInit_raise_end {s : State} {e : ErrorCode} (h : exec .fftInit s = raise e (releaseFft s)) :
    ∃ t, exec .fftInit s = .next t ∧ Failed e t ∧ OperandsKept s t ∧ ResultsKept s t ∧ NttKept s t ∧ t.gen = s.gen ∧
      MemoryKept s t ∧ t.status.fftReady = false ∧ t.fft = FftContext.cleared := by
  obtain ⟨hoperands, hresults, hntt, hgen⟩ := exec_fftInit_kept h
  exact ⟨_, h, failed_complete e _, hoperands, hresults, hntt, hgen, fun _ => rfl, rfl, rfl⟩

theorem exec_fftInit_succeed_end {s : State} {n : Nat} (hwf : s.mem.wf = true) (hn : sint s.opb = n)
    (hp : isPow2 n = true) (hmax : n ≤ s.config.nMax) :
    ∃ t, exec .fftInit s = .next t ∧ Succeeded t ∧ t.status.fftReady = true ∧ FftSound t ∧ uint t.fft.n = n ∧
      ∀ a, ¬ inWords .twfFwd (2 * n) a → ¬ inWords .twfInv (2 * n) a → byteAt t a = byteAt s a := by
  have hnbound := hmax.trans (nMax_le s.config)
  have hsound : FftSound (buildFft n (releaseFft s)) := fftSound_buildFft hwf hp hmax
  refine ⟨_, exec_fftInit_ok hn hp hmax, succeeded_complete _, rfl, hsound, uint_natBits64 (by omega),
    fun a hfwd hinv => ?_⟩
  have houtside : ∀ b w, ¬ inWords b (2 * n) a →
      a < bankBase b ∨ bankBase b + 8 * (pairWords (fftTwiddles w n)).length ≤ a := fun b w h => by
    simp only [inWords] at h
    simp only [length_pairWords, length_fftTwiddles]
    omega
  exact (readByte_bankWriteAll_other .twfInv _ (houtside _ _ hinv)).trans
    (readByte_bankWriteAll_other .twfFwd _ (houtside _ _ hfwd))

/-- A sound engine of degree 2^l, by row l of the ROM. -/
theorem fftSound_tables {t : State} {l : Nat} (h : FftSound t) (hn : uint t.fft.n = 2 ^ l) :
    t.fft.wRe = (romFwd l).re ∧ t.fft.wIm = (romFwd l).im ∧
      loadPairs .twfFwd (2 ^ l) t = fftTwiddles (romFwd l) (2 ^ l) ∧
      loadPairs .twfInv (2 ^ l) t = fftTwiddles (romInv l) (2 ^ l) := by
  simp only [FftSound, hn, Nat.log2_two_pow] at h
  obtain ⟨-, -, hre, him, hfwd, hinv⟩ := h
  exact ⟨hre, him, hfwd, hinv⟩

/-- Settles O39: the rows are those of the ROM, the tables those of a sound engine, and the errors the two checks. -/
theorem fftInitBuildsEngine : Obligations.FftInitBuildsEngine := by
  unfold Obligations.FftInitBuildsEngine
  intro rom powersOf
  have hrom : ∀ row ∈ rom,
      romFwd row.1 = ⟨row.2.1, row.2.2.1⟩ ∧ romInv row.1 = ⟨row.2.2.2.1, row.2.2.2.2⟩ := by decide
  refine ⟨hrom, fun s => ⟨fun n hwf hn hp hmax => ?_, fun e he => ?_⟩⟩
  · obtain ⟨t, hexec, hflags, hready, hsound, htn, hmem⟩ := exec_fftInit_succeed_end hwf hn hp hmax
    obtain ⟨hoperands, hresults, hntt, hgen⟩ := exec_fftInit_kept hexec
    refine ⟨t, hexec, hflags, hoperands, hresults, hntt, hgen, hready, hsound, htn, hmem, ?_⟩
    rintro l fwdRe fwdIm invRe invIm hrow rfl
    obtain ⟨hfwdRow, hinvRow⟩ := hrom _ hrow
    obtain ⟨hre, him, hfwd, hinv⟩ := fftSound_tables hsound htn
    have hpos := Nat.two_pow_pos l
    rw [hfwdRow] at hre him hfwd
    rw [hinvRow] at hinv
    exact ⟨hre, him, powers_of_loadPairs hpos hfwd, powers_of_loadPairs hpos hinv⟩
  · simp only [← isPow2Int_iff, Bool.not_eq_true] at he
    rcases he with ⟨rfl, hp⟩ | ⟨rfl, hp, hmax⟩
    · exact exec_fftInit_raise_end (exec_fftInit_invalidDegree hp)
    · exact exec_fftInit_raise_end (exec_fftInit_capacity hp hmax)

/-! ### The transforms -/

/-- A transform that ends by storing a vector of complex values which OUT can hold. -/
theorem exec_pairs_end {i : Instr} {s : State} {xs : List Cplx} {n : Nat}
    (h : exec i s = succeed (bankWriteAll .outBank (pairWords xs) s)) (hwf : s.mem.wf = true) (hlen : xs.length = n)
    (hmax : n ≤ s.config.nMax) :
    ∃ t, exec i s = .next t ∧ Succeeded t ∧ VectorFrame (2 * n) s t ∧ loadPairs .outBank n t = xs := by
  subst hlen
  have hframe := vectorFrame_output (pairWords xs) s
  rw [length_pairWords] at hframe
  exact ⟨_, h, succeeded_complete _, hframe, loadPairs_bankWriteAll_same (Nat.mul_le_mul_left 2 hmax) hwf⟩

theorem exec_fftFwd {s : State} (hready : s.status.fftReady = true) (hlen : s.len = s.fft.n) :
    exec .fftFwd s = succeed (bankWriteAll .outBank (pairWords (fftForward (uint s.fft.n) s)) s) :=
  withFftEngine_ok hready hlen _

theorem exec_fftInv {s : State} (hready : s.status.fftReady = true) (hlen : s.len = s.fft.n) :
    exec .fftInv s = succeed (bankWriteAll .outBank (pairWords (fftInverse (uint s.fft.n) s)) s) :=
  withFftEngine_ok hready hlen _

theorem network_single {α ω : Type} [Inhabited α] [Inhabited ω] (bf : α → α → ω → α × α)
    (tidx : Nat → Nat → Nat → Nat) (ws : List ω) (x : α) : network bf tidx ws [x] = [x] := rfl

/-- Settles O40: the recursion of the network, and the vector FFT.FWD stores. -/
theorem fftForwardRunsNetwork : Obligations.FftForwardRunsNetwork :=
  ⟨fun _ _ _ => ⟨rfl, rfl⟩,
    fun _ _ _ _ bf ws => ⟨network_single bf tidxFft ws, fun _ _ hlen _ hk => network_tidxFft_halves bf ws hlen hk⟩,
    fun s hwf hready hlen hmax => exec_pairs_end (exec_fftFwd hready hlen) hwf (length_fftForward _ s) hmax⟩

end Sys2Proof.Machine
end

section
/-! The transforms of the NTT domain (43_transform_engine.md R182 to R184): their closed forms modulo q, the round
trips, and negacyclic convolution. The arithmetic is in the ring of residues modulo q; that q is prime is used nowhere. -/

namespace Sys2Proof.Machine

/-! ### The butterfly and the twist modulo q -/

/-- An integer reduced modulo q is its residue. -/
theorem natCast_toNat_emod {q : Nat} (hq : 0 < q) (x : Int) : (((x % q).toNat : Nat) : ZMod q) = x := by
  have hres : (((x % q).toNat : Nat) : Int) = x % q := Int.toNat_of_nonneg (Int.emod_nonneg x (by omega))
  rw [← Int.cast_natCast, hres, ZMod.intCast_mod]

/-- The NTT butterfly is the exact one on residues (43_transform_engine.md R171). -/
theorem ringButterfly_natCast {q : Nat} (hq : 0 < q) (e o t : Nat) :
    ringButterfly (e : ZMod q) o t = (((bfNtt q e o t).1 : ZMod q), ((bfNtt q e o t).2 : ZMod q)) := by
  simp only [bfNtt, ringButterfly, natCast_toNat_emod hq]
  push_cast
  simp

theorem bfNtt_lt {q : Nat} (hq : 0 < q) (e o t : Nat) : (bfNtt q e o t).1 < q ∧ (bfNtt q e o t).2 < q := by
  have hlt := Int.emod_lt_of_pos ((e : Int) - (t * o % q : Nat)) (show (0 : Int) < q by omega)
  exact ⟨Nat.mod_lt _ hq, by simp only [bfNtt]; omega⟩

theorem dit_bfNtt_lt {q : Nat} (hq : 0 < q) (tw : Nat → Nat → Nat) (l : Nat) (f : Nat → Nat) (k : Nat) :
    dit (bfNtt q) tw (l + 1) f k < q := by
  rw [dit]
  split
  · exact (bfNtt_lt hq _ _ _).1
  · exact (bfNtt_lt hq _ _ _).2

/-! ### The network with the NTT index -/

theorem tidxNtt_eq {s l : Nat} (hs : s < l) (j : Nat) : tidxNtt j s (2 ^ l) = 2 * tidxFft j s (2 ^ l) := by
  have hdouble : 2 ^ (l - s) = 2 * 2 ^ (l - (s + 1)) := by rw [← pow_succ']; congr 1; omega
  rw [tidxNtt, tidxFft_eq hs, Nat.pow_div (by omega) (by decide), hdouble]
  ring

theorem tidxNtt_lt {s l j : Nat} (hs : s < l) (hj : j < 2 ^ s) : tidxNtt j s (2 ^ l) < 2 ^ l := by
  rw [tidxNtt, Nat.pow_div (by omega) (by decide)]
  calc j * 2 ^ (l - s) < 2 ^ s * 2 ^ (l - s) := Nat.mul_lt_mul_of_pos_right hj (by positivity)
    _ = 2 ^ l := by rw [← pow_add]; congr 1; omega

/-- The network with the NTT index on the powers of ψ is the transform with root ψ² (43_transform_engine.md R172). -/
theorem network_bfNtt {q l psi : Nat} (hq : 0 < q) (hpsi : (psi : ZMod q) ^ 2 ^ (l + 1) = -1) (f : Nat → Nat) {k : Nat}
    (hk : k < 2 ^ (l + 1)) :
    ∃ v, (network (bfNtt q) tidxNtt ((List.range (2 ^ (l + 1))).map (fun i => psi ^ i % q))
        ((List.range (2 ^ (l + 1))).map f))[k]? = some v ∧ v < q ∧
      (v : ZMod q) = ∑ j ∈ Finset.range (2 ^ (l + 1)), (f j : ZMod q) * (psi : ZMod q) ^ (2 * j * k) := by
  rw [network_map_range]
  refine ⟨_, by rw [List.getElem?_map, List.getElem?_range hk, Option.map_some], dit_bfNtt_lt hq _ _ _ _, ?_⟩
  have hroot : ((psi : ZMod q) ^ 2) ^ 2 ^ (l + 1 - 1) = -1 := by rw [← pow_mul, ← pow_succ', ← hpsi]; rfl
  rw [map_dit (φ := fun x : Nat => (x : ZMod q)) (ψ := fun x : Nat => (x : ZMod q)) (ringButterfly_natCast hq),
    dit_ringButterfly (m := l + 1) hroot (fun s hs j hj => ?_) (l + 1) (le_refl _) _ k hk]
  · refine Finset.sum_congr rfl fun j _ => ?_
    rw [Nat.sub_self, pow_zero, pow_one, ← pow_mul, mul_assoc]
  · rw [getD_map_range _ (tidxNtt_lt hs hj), ZMod.natCast_mod, Nat.cast_pow, tidxNtt_eq hs, tidxFft_eq hs, pow_mul]

/-! ### The two output vectors -/

/-- The transform of R184 item 1 on residues. -/
def nttSum {q : Nat} (n : Nat) (psi : ZMod q) (x : Nat → ZMod q) (k : Nat) : ZMod q :=
  ∑ i ∈ Finset.range n, x i * psi ^ ((2 * k + 1) * i)

/-- The inverse transform of R183 on residues. -/
def nttInverseSum {q : Nat} (n : Nat) (psiInv nInv : ZMod q) (x : Nat → ZMod q) (i : Nat) : ZMod q :=
  nInv * psiInv ^ i * ∑ k ∈ Finset.range n, x k * psiInv ^ (2 * i * k)

/-- The residue of IN word i (43_transform_engine.md R173). -/
def inResidue (q : Nat) (s : State) (i : Nat) : ZMod q := (sint (bankRead .inBank i s) : ZMod q)

theorem zipWith_map_range {α β γ : Type} (f : α → β → γ) (g : Nat → α) (h : Nat → β) (n : Nat) :
    List.zipWith f ((List.range n).map g) ((List.range n).map h) = (List.range n).map (fun i => f (g i) (h i)) := by
  rw [List.zipWith_map, List.zipWith_self]

theorem loadUints_powers {b : Bank} {n q psi : Nat} {s : State} (h : ∀ k < n, uint (bankRead b k s) = psi ^ k % q) :
    loadUints b n s = (List.range n).map (fun k => psi ^ k % q) :=
  List.map_congr_left fun k hk => h k (List.mem_range.mp hk)

theorem getElem?_nttForward {q l psi : Nat} {s : State} (hq : 0 < q) (hpsi : (psi : ZMod q) ^ 2 ^ (l + 1) = -1)
    (htable : ∀ k < 2 ^ (l + 1), uint (bankRead .twnFwd k s) = psi ^ k % q) {k : Nat} (hk : k < 2 ^ (l + 1)) :
    ∃ v, (nttForward q (2 ^ (l + 1)) s)[k]? = some v ∧ v < q ∧
      (v : ZMod q) = nttSum (2 ^ (l + 1)) (psi : ZMod q) (inResidue q s) k := by
  simp only [nttForward, loadUints_powers htable, scaleBy, loadResidues, zipWith_map_range]
  obtain ⟨v, hv, hlt, hsum⟩ := network_bfNtt hq hpsi
    (fun i => (sint (bankRead .inBank i s) % (q : Int)).toNat * (psi ^ i % q) % q) hk
  refine ⟨v, hv, hlt, hsum.trans (Finset.sum_congr rfl fun i _ => ?_)⟩
  rw [ZMod.natCast_mod, Nat.cast_mul, natCast_toNat_emod hq, ZMod.natCast_mod, Nat.cast_pow, inResidue]
  ring

theorem getElem?_nttInverse {q l psiInv : Nat} {s : State} (hq : 0 < q) (hpsi : (psiInv : ZMod q) ^ 2 ^ (l + 1) = -1)
    (nInv : Nat) (htable : ∀ k < 2 ^ (l + 1), uint (bankRead .twnInv k s) = psiInv ^ k % q) {i : Nat}
    (hi : i < 2 ^ (l + 1)) :
    ∃ v, (nttInverse q (2 ^ (l + 1)) nInv s)[i]? = some v ∧ v < q ∧
      (v : ZMod q) = nttInverseSum (2 ^ (l + 1)) (psiInv : ZMod q) nInv (inResidue q s) i := by
  obtain ⟨c, hc, -, hsum⟩ := network_bfNtt hq hpsi (fun i => (sint (bankRead .inBank i s) % (q : Int)).toNat) hi
  refine ⟨c * (psiInv ^ i % q) % q * nInv % q, ?_, Nat.mod_lt _ hq, ?_⟩
  · simp only [nttInverse, loadUints_powers htable, scaleBy, loadResidues, List.getElem?_map, List.getElem?_zipWith, hc]
    simp [hi]
  · rw [ZMod.natCast_mod, Nat.cast_mul, ZMod.natCast_mod, Nat.cast_mul, ZMod.natCast_mod, Nat.cast_pow, hsum,
      nttInverseSum]
    simp only [natCast_toNat_emod hq, inResidue, mul_right_comm 2 i]
    ring

/-! ### The commands -/

/-- What the registers of a sound engine give to the arithmetic on residues, for the degree 2^(l + 1). -/
structure NttRing (c : NttContext) (l : Nat) : Prop where
  degree : uint c.n = 2 ^ (l + 1)
  two_lt : 2 < uint c.q
  lt_two_pow : uint c.q < 2 ^ 63
  root : (uint c.psi : ZMod (uint c.q)) ^ 2 ^ (l + 1) = -1
  root_mul : (uint c.psi : ZMod (uint c.q)) * (uint c.psiInv : ZMod (uint c.q)) = 1
  degree_mul : (2 ^ (l + 1) : ZMod (uint c.q)) * (uint c.nInv : ZMod (uint c.q)) = 1

theorem NttSound.ring {s : State} (h : NttSound s) : ∃ l, NttRing s.ntt l := by
  obtain ⟨hn, -, hq, hq63, -, -, -, -, hpow, hinv, hninv, -⟩ := h
  obtain ⟨k, hk, hdegree⟩ := (isPow2_iff _).mp hn
  obtain ⟨l, rfl⟩ := Nat.exists_eq_succ_of_ne_zero (show k ≠ 0 by omega)
  rw [hdegree] at hpow hninv
  rw [← natCast_eq_neg_one_iff (by omega), Nat.cast_pow] at hpow
  rw [← natCast_eq_one_iff (by omega), Nat.cast_mul] at hinv hninv
  refine ⟨l, hdegree, hq, hq63, hpow, hinv, ?_⟩
  simpa using hninv

/-- A transform that ends by storing residues which OUT can hold. -/
theorem exec_uints_end {i : Instr} {s : State} {xs : List Nat} {n : Nat}
    (h : exec i s = succeed (bankWriteAll .outBank (uintWords xs) s)) (hwf : s.mem.wf = true) (hlen : xs.length = n)
    (hmax : n ≤ s.config.nMax) :
    ∃ t, exec i s = .next t ∧ Succeeded t ∧ VectorFrame n s t ∧
      ∀ k v, xs[k]? = some v → v < 2 ^ 64 → uint (bankRead .outBank k t) = v := by
  subst hlen
  obtain ⟨t, hexec, hflags, hframe, hwords⟩ :=
    exec_output_end h hwf (by simpa using hmax.trans (nMax_le_bankWords s.config .outBank))
  rw [length_uintWords] at hframe
  refine ⟨t, hexec, hflags, hframe, fun k v hv hlt => ?_⟩
  rw [hwords k (natBits64 v) (by simp [uintWords, hv]), uint_natBits64 hlt]

section
variable {s : State} (hwf : s.mem.wf = true) (hready : s.status.nttReady = true) (hsound : NttSound s)
  (hlen : s.len = s.ntt.n)
include hwf hready hsound hlen

/-- NTT.FWD writes the residues of the transform (43_transform_engine.md R182). -/
theorem exec_nttFwd_end : ∃ t, exec .nttFwd s = .next t ∧ Succeeded t ∧ VectorFrame (uint s.ntt.n) s t ∧
    ∀ k < uint s.ntt.n, uint (bankRead .outBank k t) < uint s.ntt.q ∧
      (uint (bankRead .outBank k t) : ZMod (uint s.ntt.q)) =
        nttSum (uint s.ntt.n) (uint s.ntt.psi : ZMod (uint s.ntt.q)) (inResidue (uint s.ntt.q) s) k := by
  obtain ⟨l, hdegree, hq, hq63, hroot, -, -⟩ := hsound.ring
  obtain ⟨-, hmax, -, -, -, -, -, -, -, -, -, htable, -⟩ := hsound
  obtain ⟨t, hexec, hflags, hframe, hwords⟩ :=
    exec_uints_end (i := .nttFwd) (withNttEngine_ok hready hlen _) hwf (length_nttForward _ _ s) hmax
  refine ⟨t, hexec, hflags, hframe, fun k hk => ?_⟩
  rw [hdegree] at htable hk hwords ⊢
  obtain ⟨v, hv, hlt, hsum⟩ := getElem?_nttForward (by omega) hroot htable hk
  rw [hwords k v hv (by omega)]
  exact ⟨hlt, hsum⟩

/-- NTT.INV writes the residues of the inverse transform (43_transform_engine.md R183). -/
theorem exec_nttInv_end : ∃ t, exec .nttInv s = .next t ∧ Succeeded t ∧ VectorFrame (uint s.ntt.n) s t ∧
    ∀ i < uint s.ntt.n, uint (bankRead .outBank i t) < uint s.ntt.q ∧
      (uint (bankRead .outBank i t) : ZMod (uint s.ntt.q)) =
        nttInverseSum (uint s.ntt.n) (uint s.ntt.psiInv : ZMod (uint s.ntt.q)) (uint s.ntt.nInv)
          (inResidue (uint s.ntt.q) s) i := by
  obtain ⟨l, hdegree, hq, hq63, hroot, hinv, -⟩ := hsound.ring
  obtain ⟨-, hmax, -, -, -, -, -, -, -, -, -, -, htable⟩ := hsound
  obtain ⟨t, hexec, hflags, hframe, hwords⟩ :=
    exec_uints_end (i := .nttInv) (withNttEngine_ok hready hlen _) hwf (length_nttInverse _ _ _ s) hmax
  refine ⟨t, hexec, hflags, hframe, fun k hk => ?_⟩
  rw [hdegree] at htable hk hwords ⊢
  obtain ⟨v, hv, hlt, hsum⟩ := getElem?_nttInverse (by omega) (inverse_pow_eq_neg_one hinv hroot) _ htable hk
  rw [hwords k v hv (by omega)]
  exact ⟨hlt, hsum⟩

end

/-- A residue below q is the remainder of every number with that residue. -/
theorem eq_mod_of_natCast_eq {q a b : Nat} (ha : a < q) (h : (a : ZMod q) = b) : a = b % q := by
  rw [← (ZMod.natCast_eq_natCast_iff' a b q).mp h, Nat.mod_eq_of_lt ha]

/-- Settles O35: the sum over residues is that of the numbers. -/
theorem nttForwardClosedForm : Obligations.NttForwardClosedForm := by
  intro s hwf hready hsound _ hlen
  obtain ⟨t, hexec, hflags, hframe, hwords⟩ := exec_nttFwd_end hwf hready hsound hlen
  obtain ⟨l, -, hq, -⟩ := hsound.ring
  refine ⟨t, hexec, hflags, hframe, fun k hk => ?_⟩
  obtain ⟨hlt, hsum⟩ := hwords k hk
  refine eq_mod_of_natCast_eq hlt (hsum.trans ?_)
  push_cast
  simp only [natCast_toNat_emod (Nat.zero_lt_of_lt hq)]
  rfl

/-- Settles O36: the sum over residues is that of the numbers. -/
theorem nttInverseClosedForm : Obligations.NttInverseClosedForm := by
  intro s hwf hready hsound _ hlen
  obtain ⟨t, hexec, hflags, hframe, hwords⟩ := exec_nttInv_end hwf hready hsound hlen
  obtain ⟨l, -, hq, -⟩ := hsound.ring
  refine ⟨t, hexec, hflags, hframe, fun k hk => ?_⟩
  obtain ⟨hlt, hsum⟩ := hwords k hk
  refine eq_mod_of_natCast_eq hlt (hsum.trans ?_)
  push_cast
  simp only [natCast_toNat_emod (Nat.zero_lt_of_lt hq)]
  rfl

/-! ### The round trips and negacyclic convolution on residues -/

/-- The negacyclic product: index sums k count plus, index sums k + n count minus (43_transform_engine.md R184
item 3). -/
def negacyclic {R : Type} [Ring R] (n : Nat) (x y : Nat → R) (k : Nat) : R :=
  ∑ i ∈ Finset.range n, ∑ j ∈ Finset.range n,
    if i + j = k then x i * y j else if i + j = k + n then -(x i * y j) else 0

/-- Where z^n = -1, the term of degree i + j folds to one of degree below n. -/
theorem sum_folded_term {R : Type} [CommRing R] {z : R} {n i j : Nat} (hz : z ^ n = -1) (hi : i < n) (hj : j < n)
    (a : R) : ∑ m ∈ Finset.range n, (if i + j = m then a else if i + j = m + n then -a else 0) * z ^ m =
      a * z ^ (i + j) := by
  by_cases hlow : i + j < n
  · rw [Finset.sum_eq_single_of_mem (i + j) (Finset.mem_range.mpr hlow) fun m hm hne => ?_, if_pos rfl]
    rw [if_neg hne.symm, if_neg (by omega), zero_mul]
  · have hfold : z ^ (i + j) = -z ^ (i + j - n) := by
      rw [← Nat.sub_add_cancel (not_lt.mp hlow), pow_add, hz, Nat.add_sub_cancel, mul_neg_one]
    rw [Finset.sum_eq_single_of_mem (i + j - n) (Finset.mem_range.mpr (by omega)) fun m hm hne => ?_,
      if_neg (by omega), if_pos (by omega), hfold, neg_mul, mul_neg]
    have hm := Finset.mem_range.mp hm
    rw [if_neg (by omega), if_neg (by omega), zero_mul]

/-- The values of the negacyclic product at a root of x^n + 1 are the products of the values. -/
theorem sum_negacyclic {R : Type} [CommRing R] {z : R} {n : Nat} (hz : z ^ n = -1) (x y : Nat → R) :
    ∑ m ∈ Finset.range n, negacyclic n x y m * z ^ m =
      (∑ i ∈ Finset.range n, x i * z ^ i) * ∑ j ∈ Finset.range n, y j * z ^ j := by
  simp only [negacyclic, Finset.sum_mul]
  rw [Finset.sum_comm]
  refine Finset.sum_congr rfl fun i hi => ?_
  rw [Finset.sum_comm, Finset.mul_sum]
  refine Finset.sum_congr rfl fun j hj => ?_
  rw [sum_folded_term hz (Finset.mem_range.mp hi) (Finset.mem_range.mp hj)]
  ring

theorem negacyclic_intCast {q n : Nat} (x y : Nat → Int) (k : Nat) :
    ((negacyclic n x y k : Int) : ZMod q) = negacyclic n (fun i => (x i : ZMod q)) (fun j => (y j : ZMod q)) k := by
  simp only [negacyclic]
  push_cast
  rfl

theorem nttSum_congr {q n : Nat} (psi : ZMod q) {x y : Nat → ZMod q} (h : ∀ i < n, x i = y i) (k : Nat) :
    nttSum n psi x k = nttSum n psi y k :=
  Finset.sum_congr rfl fun i hi => by rw [h i (Finset.mem_range.mp hi)]

theorem nttInverseSum_congr {q n : Nat} (psiInv nInv : ZMod q) {x y : Nat → ZMod q} (h : ∀ k < n, x k = y k) (i : Nat) :
    nttInverseSum n psiInv nInv x i = nttInverseSum n psiInv nInv y i := by
  rw [nttInverseSum, nttInverseSum, Finset.sum_congr rfl fun k hk => by rw [h k (Finset.mem_range.mp hk)]]

section
variable {q l : Nat} {psi psiInv nInv : ZMod q} (hroot : psi ^ 2 ^ (l + 1) = -1) (hinv : psi * psiInv = 1)
  (hn : 2 ^ (l + 1) * nInv = 1)
include hroot hinv hn

/-- The inverse undoes the transform (43_transform_engine.md R184 item 2). -/
theorem nttInverseSum_nttSum (x : Nat → ZMod q) {i : Nat} (hi : i < 2 ^ (l + 1)) :
    nttInverseSum (2 ^ (l + 1)) psiInv nInv (nttSum (2 ^ (l + 1)) psi x) i = x i := by
  have hsquare : (psi ^ 2) ^ 2 ^ l = -1 := by rw [← pow_mul, ← pow_succ', hroot]
  have hsquareInv : psi ^ 2 * psiInv ^ 2 = 1 := by rw [← mul_pow, hinv, one_pow]
  have hdft := dft_inversion hsquareInv hsquare hi (fun j => x j * psi ^ j)
  have hterm : ∀ k, nttSum (2 ^ (l + 1)) psi x k * psiInv ^ (2 * i * k) =
      (∑ j ∈ Finset.range (2 ^ (l + 1)), x j * psi ^ j * (psi ^ 2) ^ (j * k)) * (psiInv ^ 2) ^ (k * i) := fun k => by
    rw [nttSum, ← pow_mul psiInv, show 2 * i * k = 2 * (k * i) by ring]
    congr 1
    exact Finset.sum_congr rfl fun j _ => by ring
  simp only [nttInverseSum, hterm, hdft]
  calc nInv * psiInv ^ i * (2 ^ (l + 1) * (x i * psi ^ i))
      = 2 ^ (l + 1) * nInv * (psi * psiInv) ^ i * x i := by ring
    _ = x i := by rw [hn, hinv, one_pow, one_mul, one_mul]

/-- The transform undoes the inverse (43_transform_engine.md R184 item 2). -/
theorem nttSum_nttInverseSum (x : Nat → ZMod q) {k : Nat} (hk : k < 2 ^ (l + 1)) :
    nttSum (2 ^ (l + 1)) psi (nttInverseSum (2 ^ (l + 1)) psiInv nInv x) k = x k := by
  have hsquare : (psiInv ^ 2) ^ 2 ^ l = -1 := by
    rw [← pow_mul, ← pow_succ', inverse_pow_eq_neg_one hinv hroot]
  have hsquareInv : psiInv ^ 2 * psi ^ 2 = 1 := by rw [← mul_pow, mul_comm, hinv, one_pow]
  have hdft := dft_inversion hsquareInv hsquare hk x
  have hterm : ∀ i, nttInverseSum (2 ^ (l + 1)) psiInv nInv x i * psi ^ ((2 * k + 1) * i) =
      nInv * ((∑ m ∈ Finset.range (2 ^ (l + 1)), x m * (psiInv ^ 2) ^ (m * i)) * (psi ^ 2) ^ (i * k)) := fun i => by
    have hexp : ∀ m, psiInv ^ (2 * i * m) = (psiInv ^ 2) ^ (m * i) := fun m => by ring
    simp only [nttInverseSum, hexp]
    calc _ = nInv * ((∑ m ∈ Finset.range (2 ^ (l + 1)), x m * (psiInv ^ 2) ^ (m * i)) * (psi ^ 2) ^ (i * k)) *
          (psi * psiInv) ^ i := by ring
      _ = _ := by rw [hinv, one_pow, mul_one]
  simp only [nttSum, hterm, ← Finset.mul_sum, hdft]
  rw [← mul_assoc, mul_comm nInv, hn, one_mul]

omit hinv hn in
/-- The transform of the negacyclic product is the pointwise product of the transforms. -/
theorem nttSum_negacyclic (x y : Nat → ZMod q) (k : Nat) :
    nttSum (2 ^ (l + 1)) psi (negacyclic (2 ^ (l + 1)) x y) k =
      nttSum (2 ^ (l + 1)) psi x k * nttSum (2 ^ (l + 1)) psi y k := by
  have hz : (psi ^ (2 * k + 1)) ^ 2 ^ (l + 1) = -1 := by
    rw [pow_right_comm, hroot, Odd.neg_one_pow ⟨k, rfl⟩]
  simp only [nttSum, pow_mul psi]
  exact sum_negacyclic hz x y

end

/-! ### The round trips of the commands -/

theorem sint_eq_uint {v : Word} (h : uint v < 2 ^ 63) : sint v = uint v := by
  rw [sint_eq_toInt]
  exact BitVec.toInt_eq_toNat_of_lt (by simp only [uint] at h; omega)

theorem inResidue_eq {q : Nat} {s : State} {i : Nat} (h : uint (bankRead .inBank i s) < 2 ^ 63) :
    inResidue q s i = (uint (bankRead .inBank i s) : ZMod q) := by
  rw [inResidue, sint_eq_uint h, Int.cast_natCast]

theorem word_eq_of_residue {q : Nat} {v w : Word} (hv : uint v < q) (hw : uint w < q)
    (h : (uint v : ZMod q) = uint w) : v = w :=
  uint_injective ((eq_mod_of_natCast_eq hv h).trans (Nat.mod_eq_of_lt hw))

/-- A state in which a transform runs on an engine with the registers `c`. -/
structure NttRuns (c : NttContext) (s : State) : Prop where
  wf : s.mem.wf = true
  ready : s.status.nttReady = true
  sound : NttSound s
  context : s.ntt = c
  len : s.len = s.ntt.n

theorem NttRuns.ring {c : NttContext} {s : State} (h : NttRuns c s) : ∃ l, NttRing c l := h.context ▸ h.sound.ring

section
variable {c : NttContext} {s t u v : State} (hs : NttRuns c s)
include hs

theorem nttFwd_residue (h : exec .nttFwd s = .next t) : ∀ k < uint c.n,
    uint (bankRead .outBank k t) < uint c.q ∧ (uint (bankRead .outBank k t) : ZMod (uint c.q)) =
      nttSum (uint c.n) (uint c.psi : ZMod (uint c.q)) (inResidue (uint c.q) s) k := by
  obtain ⟨hwf, hready, hsound, rfl, hlen⟩ := hs
  obtain ⟨t', hexec, -, -, hwords⟩ := exec_nttFwd_end hwf hready hsound hlen
  obtain rfl := Host.Outcome.next.inj (h.symm.trans hexec)
  exact hwords

theorem nttInv_residue (h : exec .nttInv s = .next t) : ∀ i < uint c.n,
    uint (bankRead .outBank i t) < uint c.q ∧ (uint (bankRead .outBank i t) : ZMod (uint c.q)) =
      nttInverseSum (uint c.n) (uint c.psiInv : ZMod (uint c.q)) (uint c.nInv) (inResidue (uint c.q) s) i := by
  obtain ⟨hwf, hready, hsound, rfl, hlen⟩ := hs
  obtain ⟨t', hexec, -, -, hwords⟩ := exec_nttInv_end hwf hready hsound hlen
  obtain rfl := Host.Outcome.next.inj (h.symm.trans hexec)
  exact hwords

/-- The host's copy of OUT words below q to IN has the residues of those words. -/
theorem inResidue_copied (hout : ∀ i < uint c.n, uint (bankRead .outBank i t) < uint c.q)
    (hcopy : ∀ i < uint c.n, bankRead .inBank i u = bankRead .outBank i t) :
    ∀ i < uint c.n, inResidue (uint c.q) u i = (uint (bankRead .outBank i t) : ZMod (uint c.q)) := fun i hi => by
  obtain ⟨-, -, -, hq63, -⟩ := hs.ring
  have hlt := hout i hi
  rw [← hcopy i hi] at hlt ⊢
  exact inResidue_eq (by omega)

/-- OUT words below q with the residues of the IN words below q are those words. -/
theorem outWord_eq_inWord {i : Nat} (hin : uint (bankRead .inBank i s) < uint c.q)
    (hout : uint (bankRead .outBank i v) < uint c.q)
    (h : (uint (bankRead .outBank i v) : ZMod (uint c.q)) = inResidue (uint c.q) s i) :
    bankRead .outBank i v = bankRead .inBank i s := by
  obtain ⟨-, -, -, hq63, -⟩ := hs.ring
  exact word_eq_of_residue hout hin (h.trans (inResidue_eq (by omega)))

variable (hu : NttRuns c u)
include hu

section
variable (hin : ∀ i < uint c.n, uint (bankRead .inBank i s) < uint c.q)
  (hcopy : ∀ i < uint c.n, bankRead .inBank i u = bankRead .outBank i t)
include hin hcopy

theorem nttInv_nttFwd (hfwd : exec .nttFwd s = .next t) (hinv : exec .nttInv u = .next v) :
    ∀ i < uint c.n, bankRead .outBank i v = bankRead .inBank i s := fun i hi => by
  obtain ⟨l, hdegree, -, -, hroot, hroots, hdegrees⟩ := hs.ring
  have hmiddle := nttFwd_residue hs hfwd
  have hcopied := inResidue_copied hs (fun i hi => (hmiddle i hi).1) hcopy
  obtain ⟨hlt, hout⟩ := nttInv_residue hu hinv i hi
  refine outWord_eq_inWord hs (hin i hi) hlt (hout.trans ?_)
  rw [nttInverseSum_congr _ _ fun k hk => (hcopied k hk).trans (hmiddle k hk).2]
  rw [hdegree] at hi ⊢
  exact nttInverseSum_nttSum hroot hroots hdegrees _ hi

theorem nttFwd_nttInv (hinv : exec .nttInv s = .next t) (hfwd : exec .nttFwd u = .next v) :
    ∀ i < uint c.n, bankRead .outBank i v = bankRead .inBank i s := fun i hi => by
  obtain ⟨l, hdegree, -, -, hroot, hroots, hdegrees⟩ := hs.ring
  have hmiddle := nttInv_residue hs hinv
  have hcopied := inResidue_copied hs (fun i hi => (hmiddle i hi).1) hcopy
  obtain ⟨hlt, hout⟩ := nttFwd_residue hu hfwd i hi
  refine outWord_eq_inWord hs (hin i hi) hlt (hout.trans ?_)
  rw [nttSum_congr _ fun k hk => (hcopied k hk).trans (hmiddle k hk).2]
  rw [hdegree] at hi ⊢
  exact nttSum_nttInverseSum hroot hroots hdegrees _ hi

end

/-- The inverse of the pointwise products of two transforms is the negacyclic product of their inputs. -/
theorem nttInv_products {b tb : State} (hb : NttRuns c b) (hfwd : exec .nttFwd s = .next t)
    (hfwdb : exec .nttFwd b = .next tb) (hinv : exec .nttInv u = .next v)
    (hin : ∀ i < uint c.n, uint (bankRead .inBank i u) =
      uint (bankRead .outBank i t) * uint (bankRead .outBank i tb) % uint c.q) : ∀ k < uint c.n,
    (uint (bankRead .outBank k v) : Int) =
      negacyclic (uint c.n) (fun i => sint (bankRead .inBank i s)) (fun j => sint (bankRead .inBank j b)) k %
        uint c.q := by
  intro k hk
  obtain ⟨l, hdegree, hq, hq63, hroot, hroots, hdegrees⟩ := hs.ring
  have hproduct : ∀ i < uint c.n, inResidue (uint c.q) u i = nttSum (uint c.n) (uint c.psi : ZMod (uint c.q))
      (negacyclic (uint c.n) (inResidue (uint c.q) s) (inResidue (uint c.q) b)) i := fun i hi => by
    have hlt : uint (bankRead .inBank i u) < uint c.q := by rw [hin i hi]; exact Nat.mod_lt _ (by omega)
    rw [inResidue_eq (by omega), hin i hi, ZMod.natCast_mod, Nat.cast_mul, (nttFwd_residue hs hfwd i hi).2,
      (nttFwd_residue hb hfwdb i hi).2, hdegree, nttSum_negacyclic hroot]
  obtain ⟨hlt, hout⟩ := nttInv_residue hu hinv k hk
  rw [nttInverseSum_congr _ _ hproduct] at hout
  rw [hdegree] at hk hout ⊢
  rw [nttInverseSum_nttSum hroot hroots hdegrees _ hk] at hout
  have hcast := (ZMod.intCast_eq_intCast_iff' _ _ (uint c.q)).mp
    (((Int.cast_natCast _).trans hout).trans (negacyclic_intCast _ _ k).symm)
  rwa [Int.emod_eq_of_lt (by omega) (by omega)] at hcast

end

/-- Settles O37: on residues the two transforms undo each other, and the transform of the negacyclic product is the
pointwise product; below q a word is given by its residue. -/
theorem nttRoundTrip : Obligations.NttRoundTrip := by
  refine ⟨fun s t u v hwf hwfu hready hreadyu hsound hsoundu _ hntt _ hlen hlenu hin hcopy => ?_,
    fun a b u ta tb v ha hb hu hnttb hnttu hfwda hfwdb hinv hin => ?_⟩
  · have hs : NttRuns s.ntt s := ⟨hwf, hready, hsound, rfl, hlen⟩
    have hu : NttRuns s.ntt u := ⟨hwfu, hreadyu, hsoundu, hntt, by rw [hlenu, hntt]⟩
    exact ⟨nttInv_nttFwd hs hu hin hcopy, nttFwd_nttInv hs hu hin hcopy⟩
  · have runs : ∀ {x : State}, NttUsable x → x.ntt = a.ntt → NttRuns a.ntt x :=
      fun ⟨hwf, hready, hsound, _, hlen⟩ hntt => ⟨hwf, hready, hsound, hntt, hlen⟩
    exact nttInv_products (runs ha rfl) (runs hu hnttu) (runs hb hnttb) hfwda hfwdb hinv hin

end Sys2Proof.Machine
end

section
/-! The binary64 format and its rounding (43_transform_engine.md R176, log entry 14): the value of a pattern by its
fields, and why rounding a significand to 53 bits gives the nearest pattern. -/

namespace Sys2Proof.Machine

/-! ### The fields of a pattern -/

/-- The sign as a factor. -/
def signFactor (neg : Bool) : ℚ := if neg then -1 else 1

theorem signFactor_mul_self (neg : Bool) : signFactor neg * signFactor neg = 1 := by cases neg <;> norm_num [signFactor]

theorem abs_signFactor (neg : Bool) : |signFactor neg| = 1 := by cases neg <;> simp [signFactor]

theorem signFactor_not (neg : Bool) : signFactor (!neg) = -signFactor neg := by cases neg <;> simp [signFactor]

theorem signFactor_bne (s t : Bool) : signFactor (s != t) = signFactor s * signFactor t := by
  cases s <;> cases t <;> simp [signFactor]

/-- A signed value is negative exactly when its sign says so. -/
theorem signFactor_mul_neg_iff (neg : Bool) {a : ℚ} (ha : 0 < a) : signFactor neg * a < 0 ↔ neg = true := by
  cases neg
  · simp [signFactor, ha.le]
  · simp [signFactor, ha]

/-- The exponent field. -/
def exponentField (w : Word) : Nat := w.toNat / 2 ^ 52 % 2 ^ 11

/-- The fraction field. -/
def fractionField (w : Word) : Nat := w.toNat % 2 ^ 52

theorem toNat_exponent (w : Word) : (w.extractLsb' 52 11).toNat = exponentField w := by
  rw [BitVec.extractLsb'_toNat, Nat.shiftRight_eq_div_pow, exponentField]

theorem toNat_fraction (w : Word) : (w.extractLsb' 0 52).toNat = fractionField w := by
  rw [BitVec.extractLsb'_toNat, Nat.shiftRight_zero, fractionField]

theorem finite64_iff (w : Word) : finite64 w = true ↔ exponentField w ≠ 0x7FF := by
  rw [finite64, bne_iff_ne, ne_eq, ← BitVec.toNat_inj, toNat_exponent]
  rfl

theorem value64_eq (w : Word) : value64 w = signFactor (sign64 w) *
    if exponentField w = 0 then (fractionField w : ℚ) * 2 ^ (-1074 : ℤ)
    else (2 ^ 52 + fractionField w : ℚ) * 2 ^ ((exponentField w : ℤ) - 1075) := by
  simp only [value64, toNat_exponent, toNat_fraction, signFactor]

theorem f64_eq (w : Word) : f64 w =
    if exponentField w = 0x7FF then (if fractionField w = 0 then .inf (sign64 w) else .nan)
    else if exponentField w = 0 then .fin (sign64 w) (fractionField w) (-1074)
    else .fin (sign64 w) (2 ^ 52 + fractionField w) ((exponentField w : ℤ) - 1075) := rfl

/-- A finite pattern is read as its value, with a significand below 2^53 and at least the exponent of the subnormals. -/
theorem f64_of_finite {w : Word} (h : finite64 w = true) :
    ∃ (m : Nat) (e : ℤ), f64 w = .fin (sign64 w) m e ∧ value64 w = signFactor (sign64 w) * (m * 2 ^ e) ∧
      m < 2 ^ 53 ∧ -1074 ≤ e := by
  have hfraction : fractionField w < 2 ^ 52 := Nat.mod_lt _ (by positivity)
  rw [finite64_iff] at h
  rw [f64_eq, value64_eq, if_neg h]
  by_cases he : exponentField w = 0
  · rw [if_pos he, if_pos he]
    exact ⟨_, _, rfl, rfl, by omega, le_refl _⟩
  · rw [if_neg he, if_neg he]
    refine ⟨_, _, rfl, ?_, by omega, by omega⟩
    push_cast
    rfl

/-- The pattern of a sign and a magnitude, the bits below the sign. -/
def signedPattern (neg : Bool) (mag : Nat) : Word := natBits64 (signBit neg + mag)

theorem toNat_signedPattern (neg : Bool) {mag : Nat} (h : mag < 2 ^ 63) :
    (signedPattern neg mag).toNat = signBit neg + mag := by
  have hsign : signBit neg ≤ 2 ^ 63 := by cases neg <;> simp [signBit]
  exact uint_natBits64 (by omega)

theorem signBit_eq (neg : Bool) : signBit neg = 2 ^ 63 * neg.toNat := by cases neg <;> rfl

theorem sign64_signedPattern (neg : Bool) {mag : Nat} (h : mag < 2 ^ 63) : sign64 (signedPattern neg mag) = neg := by
  rw [sign64, BitVec.getLsbD, toNat_signedPattern neg h]
  cases neg
  · simpa [signBit] using Nat.testBit_lt_two_pow h
  · rw [signBit, if_pos rfl, Nat.testBit_two_pow_add_eq, Nat.testBit_lt_two_pow h]
    rfl

theorem fields_signedPattern (neg : Bool) {mag : Nat} (h : mag < 2 ^ 63) :
    exponentField (signedPattern neg mag) = mag / 2 ^ 52 ∧ fractionField (signedPattern neg mag) = mag % 2 ^ 52 := by
  rw [exponentField, fractionField, toNat_signedPattern neg h, signBit_eq]
  omega

/-- The value of the pattern that holds a significand of at most 53 bits above E last places of the subnormals: a carry
out of the significand moves into the exponent field. -/
theorem value64_signedPattern (neg : Bool) {E sig : Nat} (hfinite : E * 2 ^ 52 + sig < 0x7FF * 2 ^ 52)
    (hnormal : E = 0 ∨ 2 ^ 52 ≤ sig) (hsig : sig ≤ 2 ^ 53) :
    finite64 (signedPattern neg (E * 2 ^ 52 + sig)) = true ∧
      value64 (signedPattern neg (E * 2 ^ 52 + sig)) = signFactor neg * (sig * 2 ^ ((E : ℤ) - 1074)) := by
  have hmag : E * 2 ^ 52 + sig < 2 ^ 63 := by omega
  obtain ⟨hexponent, hfraction⟩ := fields_signedPattern neg hmag
  rw [finite64_iff, value64_eq, sign64_signedPattern neg hmag, hexponent, hfraction]
  refine ⟨by omega, ?_⟩
  congr 1
  rcases (show sig < 2 ^ 52 ∨ (2 ^ 52 ≤ sig ∧ sig < 2 ^ 53) ∨ sig = 2 ^ 53 by omega) with hlt | ⟨hlo, hhi⟩ | rfl
  · obtain rfl : E = 0 := by omega
    rw [if_pos (by omega), Nat.mod_eq_of_lt (by omega)]
    simp
  · have hexp : (E * 2 ^ 52 + sig) / 2 ^ 52 = E + 1 := by omega
    have hfrac : (E * 2 ^ 52 + sig) % 2 ^ 52 = sig - 2 ^ 52 := by omega
    have hplace : ((E + 1 : Nat) : ℤ) - 1075 = (E : ℤ) - 1074 := by omega
    rw [hexp, hfrac, if_neg (by omega), hplace, Nat.cast_sub hlo]
    push_cast
    ring
  · have hexp : (E * 2 ^ 52 + 2 ^ 53) / 2 ^ 52 = E + 2 := by omega
    have hfrac : (E * 2 ^ 52 + 2 ^ 53) % 2 ^ 52 = 0 := by omega
    have hplace : ((E + 2 : Nat) : ℤ) - 1075 = (E : ℤ) - 1074 + 1 := by omega
    rw [hexp, hfrac, if_neg (by omega), hplace, zpow_add_one₀ (by norm_num)]
    push_cast
    ring

/-! ### Rounding a significand -/

/-- `sig` is x rounded to an integer, to nearest with ties to even, where x > 0 counts last places 2^q: it has 53 bits,
or the last place is that of the subnormals. -/
structure Rounding (x : ℚ) (q : ℤ) (sig : Nat) : Prop where
  near : |x - sig| ≤ 1 / 2
  even : |x - sig| = 1 / 2 → sig % 2 = 0
  place : -1074 ≤ q
  normal : q = -1074 ∨ 2 ^ 52 ≤ x
  upper : x < 2 ^ 53
  pos : 0 < x

/-- Of all integers the rounded one is nearest, and another one is as near in a tie only. -/
theorem abs_sub_le_of_near {x : ℚ} {sig : Nat} (h : |x - sig| ≤ 1 / 2) (k : ℤ) :
    |sig - x| ≤ |k - x| ∧ ((k : ℚ) ≠ sig → |(k : ℚ) - x| = |sig - x| → |x - sig| = 1 / 2) := by
  rw [abs_sub_comm x] at h ⊢
  by_cases hk : k = sig
  · subst hk
    exact ⟨le_of_eq (by push_cast; rfl), fun hne => absurd (by push_cast; rfl) hne⟩
  · have hone : (1 : ℚ) ≤ |(k : ℚ) - sig| := by
      have hint : (1 : ℤ) ≤ |k - sig| := Int.one_le_abs (sub_ne_zero.mpr hk)
      exact_mod_cast hint
    have htriangle : |(k : ℚ) - sig| ≤ |(k : ℚ) - x| + |sig - x| := by
      rw [abs_sub_comm (sig : ℚ) x]
      exact abs_sub_le _ _ _
    exact ⟨by linarith, fun _ heq => by linarith⟩

/-- A finite value is a multiple of the last place, or smaller than every number of 53 bits with that last place. -/
theorem value64_multiple_or_small {z : Word} (hz : finite64 z = true) (q : ℤ) :
    (∃ k : ℤ, value64 z = k * 2 ^ q) ∨ (-1074 < q ∧ |value64 z| < 2 ^ 52 * 2 ^ q) := by
  obtain ⟨m, e, -, hvalue, hm, he⟩ := f64_of_finite hz
  rcases le_or_gt q e with hle | hgt
  · left
    obtain ⟨d, hd⟩ := Int.eq_ofNat_of_zero_le (sub_nonneg.mpr hle)
    obtain rfl : e = d + q := by omega
    refine ⟨(if sign64 z then -1 else 1) * (m * 2 ^ d), ?_⟩
    rw [hvalue, zpow_add₀ (by norm_num), zpow_natCast, signFactor]
    push_cast
    ring
  · right
    refine ⟨by omega, ?_⟩
    have hpow : (0 : ℚ) < 2 ^ e := by positivity
    have hm' : (m : ℚ) < 2 ^ 53 := by exact_mod_cast hm
    rw [hvalue, abs_mul, abs_signFactor, one_mul, abs_of_nonneg (by positivity)]
    calc (m : ℚ) * 2 ^ e < 2 ^ 53 * 2 ^ e := mul_lt_mul_of_pos_right hm' hpow
      _ = 2 ^ 52 * 2 ^ (e + 1) := by rw [zpow_add_one₀ (by norm_num)]; ring
      _ ≤ 2 ^ 52 * 2 ^ q := by gcongr <;> [norm_num; omega]

/-- The bound of the infinities, in last places of the largest binade. -/
theorem infinity_bound : (2 : ℚ) ^ 1024 - 2 ^ 970 = (2 ^ 53 - 1 / 2) * 2 ^ (971 : ℤ) := by
  rw [show (971 : ℤ) = (970 : ℕ) + 1 by rfl, zpow_add_one₀ (by norm_num), zpow_natCast,
    show (1024 : ℕ) = 970 + 54 by rfl, pow_add]
  generalize (2 : ℚ) ^ 970 = p
  ring

section
variable {x : ℚ} {q : ℤ} {sig : Nat} (h : Rounding x q sig)
include h

theorem Rounding.sig_le : sig ≤ 2 ^ 53 := by
  obtain ⟨hlo, hhi⟩ := abs_le.mp h.near
  have hlt : (sig : ℚ) < 2 ^ 53 + 1 := by linarith [h.upper]
  exact Nat.lt_succ_iff.mp (by exact_mod_cast hlt)

theorem Rounding.le_sig (hq : q ≠ -1074) : 2 ^ 52 ≤ sig := by
  obtain ⟨hlo, hhi⟩ := abs_le.mp h.near
  have hlt : (2 : ℚ) ^ 52 < sig + 1 := by linarith [h.normal.resolve_left hq]
  exact Nat.lt_succ_iff.mp (by exact_mod_cast hlt)

/-- No finite value is nearer to x last places than the rounded significand, and one as near is a tie. -/
theorem Rounding.nearest (neg : Bool) {z : Word} (hz : finite64 z = true) :
    |signFactor neg * (sig * 2 ^ q) - signFactor neg * (x * 2 ^ q)| ≤ |value64 z - signFactor neg * (x * 2 ^ q)| ∧
      (value64 z ≠ signFactor neg * (sig * 2 ^ q) →
        |value64 z - signFactor neg * (x * 2 ^ q)| = |signFactor neg * (sig * 2 ^ q) - signFactor neg * (x * 2 ^ q)| →
        sig % 2 = 0) := by
  have hu : (0 : ℚ) < 2 ^ q := by positivity
  have scale : ∀ a : ℚ, |signFactor neg * (a * 2 ^ q) - signFactor neg * (x * 2 ^ q)| = |a - x| * 2 ^ q := fun a => by
    rw [← mul_sub, ← sub_mul, abs_mul, abs_mul, abs_signFactor, one_mul, abs_of_pos hu]
  rcases value64_multiple_or_small hz q with ⟨k, hk⟩ | ⟨hq, hsmall⟩
  · obtain ⟨k', hk'⟩ : ∃ k' : ℤ, value64 z = signFactor neg * (k' * 2 ^ q) := by
      cases neg
      · exact ⟨k, by simp [hk, signFactor]⟩
      · exact ⟨-k, by simp [hk, signFactor]⟩
    obtain ⟨hle, htie⟩ := abs_sub_le_of_near h.near k'
    rw [hk', scale, scale]
    refine ⟨mul_le_mul_of_nonneg_right hle hu.le, fun hne heq => h.even (htie (fun hkk => hne (by rw [hkk])) ?_)⟩
    exact mul_right_cancel₀ hu.ne' heq
  · have hnormal := h.normal.resolve_left hq.ne'
    have hlt : |sig - x| * 2 ^ q < |value64 z - signFactor neg * (x * 2 ^ q)| := by
      obtain ⟨hle, -⟩ := abs_sub_le_of_near h.near (2 ^ 52)
      rw [Int.cast_pow, Int.cast_ofNat, abs_of_nonpos (by linarith : (2 : ℚ) ^ 52 - x ≤ 0)] at hle
      have htriangle := abs_sub_abs_le_abs_sub (signFactor neg * (x * 2 ^ q)) (value64 z)
      rw [abs_sub_comm _ (value64 z), abs_mul, abs_signFactor, one_mul,
        abs_of_pos (mul_pos h.pos hu)] at htriangle
      calc |sig - x| * 2 ^ q ≤ -(2 ^ 52 - x) * 2 ^ q := mul_le_mul_of_nonneg_right hle hu.le
        _ < |value64 z - signFactor neg * (x * 2 ^ q)| := by linarith
    rw [scale]
    exact ⟨hlt.le, fun _ heq => absurd heq hlt.ne'⟩

/-- The magnitude of the rounded pattern reaches the infinity exactly from half a last place above the largest finite
value on: there the tie goes up, because the largest finite significand is odd. -/
theorem Rounding.overflow_iff :
    0x7FF * 2 ^ 52 ≤ (q + 1074).toNat * 2 ^ 52 + sig ↔ (2 : ℚ) ^ 1024 - 2 ^ 970 ≤ x * 2 ^ q := by
  have hplace := h.place
  have hsig := h.sig_le
  rw [infinity_bound]
  rcases lt_trichotomy q 971 with hlt | rfl | hgt
  · refine iff_of_false (by omega) (not_le.mpr ?_)
    calc x * 2 ^ q ≤ x * 2 ^ (970 : ℤ) := by
          have := h.pos
          gcongr
          · norm_num
          · omega
      _ < 2 ^ 53 * 2 ^ (970 : ℤ) := mul_lt_mul_of_pos_right h.upper (by positivity)
      _ ≤ (2 ^ 53 - 1 / 2) * 2 ^ (971 : ℤ) := by
          rw [show (971 : ℤ) = 970 + 1 by rfl, zpow_add_one₀ (by norm_num)]
          have hp : (0 : ℚ) < 2 ^ (970 : ℤ) := by positivity
          generalize (2 : ℚ) ^ (970 : ℤ) = p at hp
          linarith
  · rw [mul_le_mul_iff_left₀ (by positivity)]
    obtain ⟨hlo, hhi⟩ := abs_le.mp h.near
    constructor
    · intro hmag
      have hge : (2 : ℚ) ^ 53 ≤ sig := by exact_mod_cast (by omega : 2 ^ 53 ≤ sig)
      linarith
    · intro hx
      by_contra hmag
      obtain rfl : sig = 2 ^ 53 - 1 := by
        have hge : (2 : ℚ) ^ 53 ≤ sig + 1 := by linarith
        have hge' : 2 ^ 53 ≤ sig + 1 := by exact_mod_cast hge
        omega
      have heven := h.even (le_antisymm h.near (le_abs.mpr (.inl (by push_cast; linarith))))
      omega
  · refine iff_of_true ?_ ?_
    · have := h.le_sig (by omega)
      omega
    · have hnormal := h.normal.resolve_left (by omega)
      calc (2 ^ 53 - 1 / 2) * 2 ^ (971 : ℤ) ≤ 2 ^ 52 * 2 ^ (971 + 1 : ℤ) := by
            rw [zpow_add_one₀ (by norm_num)]
            have hp : (0 : ℚ) < 2 ^ (971 : ℤ) := by positivity
            generalize (2 : ℚ) ^ (971 : ℤ) = p at hp
            linarith
        _ ≤ x * 2 ^ q := by
            gcongr
            · norm_num
            · omega

end

/-! ### The rounded pattern -/

/-- The pattern of a rounded significand: an infinity when the magnitude is past the largest finite one. -/
def roundedPattern (neg : Bool) (q : ℤ) (sig : Nat) : Word :=
  if 0x7FF * 2 ^ 52 ≤ (q + 1074).toNat * 2 ^ 52 + sig then infinityWord neg
  else signedPattern neg ((q + 1074).toNat * 2 ^ 52 + sig)

theorem infinityWord_eq (neg : Bool) : infinityWord neg = signedPattern neg (0x7FF * 2 ^ 52) := rfl

theorem sign64_roundedPattern (neg : Bool) (q : ℤ) (sig : Nat) : sign64 (roundedPattern neg q sig) = neg := by
  rw [roundedPattern]
  split
  · rw [infinityWord_eq, sign64_signedPattern neg (by norm_num)]
  · rw [sign64_signedPattern neg (by omega)]

theorem getLsbD_zero_signedPattern (neg : Bool) {mag : Nat} (h : mag < 2 ^ 63) (heven : mag % 2 = 0) :
    (signedPattern neg mag).getLsbD 0 = false := by
  rw [BitVec.getLsbD, toNat_signedPattern neg h, signBit_eq, Nat.testBit_zero, decide_eq_false_iff_not]
  omega

/-- A rounded significand below the overflow gives the finite pattern of its value. -/
theorem Rounding.value {x : ℚ} {q : ℤ} {sig : Nat} (h : Rounding x q sig) (neg : Bool)
    (hlt : x * 2 ^ q < 2 ^ 1024 - 2 ^ 970) :
    finite64 (roundedPattern neg q sig) = true ∧
      value64 (roundedPattern neg q sig) = signFactor neg * (sig * 2 ^ q) := by
  have hmag : ¬ 0x7FF * 2 ^ 52 ≤ (q + 1074).toNat * 2 ^ 52 + sig := mt h.overflow_iff.mp (not_le.mpr hlt)
  have hplace := h.place
  have hnormal : (q + 1074).toNat = 0 ∨ 2 ^ 52 ≤ sig := by
    by_cases hq : q = -1074
    · exact .inl (by omega)
    · exact .inr (h.le_sig hq)
  have hvalue := value64_signedPattern neg (not_le.mp hmag) hnormal h.sig_le
  rw [Int.toNat_of_nonneg (by omega), add_sub_cancel_right] at hvalue
  rwa [roundedPattern, if_neg hmag]

/-- The pattern of a rounded significand is the rounding of the number it was rounded from. -/
theorem Rounding.roundsTo {x : ℚ} {q : ℤ} {sig : Nat} (h : Rounding x q sig) (neg : Bool) :
    RoundsTo (signFactor neg * (x * 2 ^ q)) (roundedPattern neg q sig) := by
  have hpos : 0 < x * 2 ^ q := mul_pos h.pos (by positivity)
  have hneg := signFactor_mul_neg_iff neg hpos
  have habs : |signFactor neg * (x * 2 ^ q)| = x * 2 ^ q := by rw [abs_mul, abs_signFactor, one_mul, abs_of_pos hpos]
  rw [RoundsTo, habs]
  refine ⟨fun hlt => ?_, fun hge => ?_, fun _ => ?_⟩
  · obtain ⟨hfinite, hvalue⟩ := h.value neg hlt
    refine ⟨hfinite, fun z hz => ?_⟩
    obtain ⟨hle, htie⟩ := h.nearest neg hz
    rw [hvalue]
    refine ⟨hle, fun hne heq => ?_⟩
    have heven := htie hne heq
    have hmag : ¬ 0x7FF * 2 ^ 52 ≤ (q + 1074).toNat * 2 ^ 52 + sig := mt h.overflow_iff.mp (not_le.mpr hlt)
    rw [roundedPattern, if_neg hmag]
    exact getLsbD_zero_signedPattern neg (by omega) (by omega)
  · rw [roundedPattern, if_pos (h.overflow_iff.mpr hge)]
    simp only [hneg]
    cases neg <;> rfl
  · rw [sign64_roundedPattern]
    simp only [hneg, Bool.decide_eq_true]

/-! ### The rounding of a significand and an exponent -/

/-- The exponent of the last place (00_scope.md section 6): the one that leaves 53 bits, and at least that of the
subnormals. -/
def lastPlace (m : Nat) (e : ℤ) : ℤ := max (e + (Nat.log2 m + 1 : Nat) - 53) (-1074)

/-- The significand counted in last places, rounded. -/
def roundedSignificand (m : Nat) (e : ℤ) : Nat :=
  if lastPlace m e ≤ e then m * 2 ^ (e - lastPlace m e).toNat else roundShift m (lastPlace m e - e).toNat

theorem roundPack_eq (neg : Bool) {m : Nat} (hm : m ≠ 0) (e : ℤ) :
    roundPack neg m e = roundedPattern neg (lastPlace m e) (roundedSignificand m e) := if_neg hm

/-- `X` rounds as its integer approximation m does: it is m, or m is odd, X lies strictly between the neighbours of m,
and at least two bits of m are rounded off, so that no midpoint lies strictly between the neighbours of m. -/
def RoundsAs (X : ℚ) (m : Nat) (e : ℤ) : Prop :=
  X = m ∨ (m % 2 = 1 ∧ |X - m| < 1 ∧ e + 2 ≤ lastPlace m e)

theorem RoundsAs.bounds {X : ℚ} {m : Nat} {e : ℤ} (h : RoundsAs X m e) (hm : m ≠ 0) :
    0 < X ∧ X < 2 ^ (Nat.log2 m + 1) ∧ (lastPlace m e = -1074 ∨ 2 ^ Nat.log2 m ≤ X) := by
  have hlo : 2 ^ Nat.log2 m ≤ m := Nat.log2_self_le hm
  have hhi : m + 1 ≤ 2 ^ (Nat.log2 m + 1) := Nat.lt_log2_self
  have hloQ : (2 : ℚ) ^ Nat.log2 m ≤ m := by exact_mod_cast hlo
  have hhiQ : (m : ℚ) + 1 ≤ 2 ^ (Nat.log2 m + 1) := by exact_mod_cast hhi
  have hpos : (1 : ℚ) ≤ m := by exact_mod_cast Nat.one_le_iff_ne_zero.mpr hm
  rcases h with rfl | ⟨hodd, hX, hplace⟩
  · exact ⟨by linarith, by linarith, .inr hloQ⟩
  · obtain ⟨hleft, hright⟩ := abs_lt.mp hX
    refine ⟨by linarith, by linarith, ?_⟩
    by_cases hmin : lastPlace m e = -1074
    · exact .inl hmin
    · right
      have hlog : Nat.log2 m ≠ 0 := by
        simp only [lastPlace] at hplace hmin
        omega
      obtain ⟨k, hk⟩ := Nat.exists_eq_succ_of_ne_zero hlog
      have hne : 2 ^ Nat.log2 m ≠ m := by
        intro heq
        rw [← heq, hk, pow_succ, Nat.mul_mod_left] at hodd
        omega
      have hltQ : (2 : ℚ) ^ Nat.log2 m + 1 ≤ m := by exact_mod_cast Nat.lt_of_le_of_ne hlo hne
      linarith

/-- Rounding off t bits gives the integer nearest to X / 2^t, and an even one in a tie. -/
theorem roundShift_nearest {X : ℚ} {m t : Nat} (ht : 1 ≤ t) (h : X = m ∨ (m % 2 = 1 ∧ |X - m| < 1 ∧ 2 ≤ t)) :
    |X / 2 ^ t - roundShift m t| ≤ 1 / 2 ∧ (|X / 2 ^ t - roundShift m t| = 1 / 2 → roundShift m t % 2 = 0) := by
  obtain ⟨hlo, hhi, heven⟩ := roundShift_near m t
  generalize roundShift m t = r at *
  obtain ⟨k, rfl⟩ := Nat.exists_eq_add_of_le' ht
  have hpos : (0 : ℚ) < 2 ^ k := by positivity
  have hscale : X / 2 ^ (k + 1) - r = (X - 2 * (r * 2 ^ k)) / (2 * 2 ^ k) := by rw [pow_succ]; field_simp
  rw [pow_succ] at hlo hhi heven
  have hprod : r * (2 ^ k * 2) = 2 * (r * 2 ^ k) := by ring
  rw [hprod] at hlo hhi heven
  rw [hscale, abs_div, abs_of_pos (show (0 : ℚ) < 2 * 2 ^ k by positivity), div_le_iff₀ (by positivity),
    div_eq_iff (by positivity)]
  rcases h with rfl | ⟨hodd, hX, hk⟩
  · have hlo' : (m : ℚ) ≤ 2 * (r * 2 ^ k) + 2 ^ k := by exact_mod_cast (by omega : m ≤ 2 * (r * 2 ^ k) + 2 ^ k)
    have hhi' : 2 * (r * 2 ^ k) ≤ (m : ℚ) + 2 ^ k := by exact_mod_cast (by omega : 2 * (r * 2 ^ k) ≤ m + 2 ^ k)
    refine ⟨abs_le.mpr ⟨by linarith, by linarith⟩, fun htie => heven ?_⟩
    rcases eq_or_eq_neg_of_abs_eq htie with heq | heq
    · have hm : (m : ℚ) = 2 * (r * 2 ^ k) + 2 ^ k := by linarith
      have hm' : m = 2 * (r * 2 ^ k) + 2 ^ k := by exact_mod_cast hm
      omega
    · have hm : 2 * (r * 2 ^ k) = (m : ℚ) + 2 ^ k := by linarith
      have hm' : 2 * (r * 2 ^ k) = m + 2 ^ k := by exact_mod_cast hm
      omega
  · obtain ⟨j, rfl⟩ := Nat.exists_eq_add_of_le' (show 1 ≤ k by omega)
    obtain ⟨hleft, hright⟩ := abs_lt.mp hX
    have hdouble : 2 ^ (j + 1) = 2 * 2 ^ j := by rw [pow_succ, mul_comm]
    have hlo' : (m : ℚ) + 1 ≤ 2 * (r * 2 ^ (j + 1)) + 2 ^ (j + 1) := by
      exact_mod_cast (by omega : m + 1 ≤ 2 * (r * 2 ^ (j + 1)) + 2 ^ (j + 1))
    have hhi' : 2 * (r * 2 ^ (j + 1)) + 1 ≤ (m : ℚ) + 2 ^ (j + 1) := by
      exact_mod_cast (by omega : 2 * (r * 2 ^ (j + 1)) + 1 ≤ m + 2 ^ (j + 1))
    have hlt : |X - 2 * (r * 2 ^ (j + 1))| < 2 ^ (j + 1) := abs_lt.mpr ⟨by linarith, by linarith⟩
    exact ⟨by linarith, fun htie => absurd htie (by linarith)⟩

/-- The rounded significand is the integer nearest to X in last places, and an even one in a tie. -/
theorem RoundsAs.near {X : ℚ} {m : Nat} {e : ℤ} (h : RoundsAs X m e) :
    |X * 2 ^ (e - lastPlace m e) - roundedSignificand m e| ≤ 1 / 2 ∧
      (|X * 2 ^ (e - lastPlace m e) - roundedSignificand m e| = 1 / 2 → roundedSignificand m e % 2 = 0) := by
  rw [roundedSignificand]
  split
  · next hle =>
    obtain ⟨d, hd⟩ := Int.eq_ofNat_of_zero_le (sub_nonneg.mpr hle)
    obtain rfl : X = m := h.resolve_right fun ⟨_, _, hplace⟩ => by omega
    rw [hd, Int.toNat_natCast, zpow_natCast]
    push_cast
    rw [sub_self, abs_zero]
    exact ⟨by norm_num, fun hzero => absurd hzero (by norm_num)⟩
  · next hgt =>
    obtain ⟨t, ht⟩ := Int.eq_ofNat_of_zero_le (show 0 ≤ lastPlace m e - e by omega)
    have hshift : X * 2 ^ (e - lastPlace m e) = X / 2 ^ t := by
      rw [← neg_sub, ht, zpow_neg, zpow_natCast, div_eq_mul_inv]
    rw [hshift, ht, Int.toNat_natCast]
    exact roundShift_nearest (by omega) (h.imp_right fun ⟨hodd, hX, hplace⟩ => ⟨hodd, hX, by omega⟩)

/-- The rounded significand of X, with the last place of its approximation m. -/
theorem RoundsAs.rounding {X : ℚ} {m : Nat} {e : ℤ} (h : RoundsAs X m e) (hm : m ≠ 0) :
    Rounding (X * 2 ^ (e - lastPlace m e)) (lastPlace m e) (roundedSignificand m e) := by
  obtain ⟨hpos, hupper, hlower⟩ := h.bounds hm
  have hmin : -1074 ≤ lastPlace m e := le_max_right _ _
  have hwidth : e - lastPlace m e + Nat.log2 m ≤ 52 := by simp only [lastPlace]; omega
  have hwidth' : lastPlace m e = -1074 ∨ e - lastPlace m e + Nat.log2 m = 52 := by simp only [lastPlace]; omega
  have hscale : (2 : ℚ) ^ Nat.log2 m * 2 ^ (e - lastPlace m e) = 2 ^ (e - lastPlace m e + Nat.log2 m) := by
    rw [zpow_add₀ (by norm_num), zpow_natCast, mul_comm]
  obtain ⟨hnear, heven⟩ := h.near
  refine ⟨hnear, heven, hmin, ?_, ?_, by positivity⟩
  · rcases hwidth' with hq | hfull
    · exact .inl hq
    · refine hlower.imp_right fun hlo => ?_
      calc (2 : ℚ) ^ 52 = 2 ^ Nat.log2 m * 2 ^ (e - lastPlace m e) := by rw [hscale, hfull]; rfl
        _ ≤ X * 2 ^ (e - lastPlace m e) := mul_le_mul_of_nonneg_right hlo (by positivity)
  · calc X * 2 ^ (e - lastPlace m e) < 2 ^ (Nat.log2 m + 1) * 2 ^ (e - lastPlace m e) :=
          mul_lt_mul_of_pos_right hupper (by positivity)
      _ = 2 * 2 ^ (e - lastPlace m e + Nat.log2 m) := by rw [← hscale, pow_succ]; ring
      _ ≤ 2 * 2 ^ (52 : ℤ) := by gcongr; norm_num
      _ = 2 ^ 53 := by norm_num

/-- Rounding a significand and an exponent rounds every number that the significand approximates for this purpose. -/
theorem roundPack_roundsTo_of_roundsAs (neg : Bool) {X : ℚ} {m : Nat} {e : ℤ} (hm : m ≠ 0) (h : RoundsAs X m e) :
    RoundsTo (signFactor neg * (X * 2 ^ e)) (roundPack neg m e) := by
  have hround := (h.rounding hm).roundsTo neg
  rwa [mul_assoc X, ← zpow_add₀ (by norm_num), sub_add_cancel, ← roundPack_eq neg hm] at hround

theorem zeroWord_eq (neg : Bool) : zeroWord neg = signedPattern neg (0 * 2 ^ 52 + 0) := rfl

@[simp] theorem sign64_zeroWord (neg : Bool) : sign64 (zeroWord neg) = neg := by
  rw [zeroWord_eq, sign64_signedPattern neg (by norm_num)]

theorem zeroWord_value (neg : Bool) : finite64 (zeroWord neg) = true ∧ value64 (zeroWord neg) = 0 := by
  have hvalue := value64_signedPattern neg (E := 0) (sig := 0) (by norm_num) (.inl rfl) (by norm_num)
  simpa [zeroWord_eq] using hvalue

/-- Either zero is the rounding of 0. -/
theorem zeroWord_roundsTo (neg : Bool) : RoundsTo 0 (zeroWord neg) := by
  obtain ⟨hfinite, hvalue⟩ := zeroWord_value neg
  have hbound : ¬ (2 : ℚ) ^ 1024 - 2 ^ 970 ≤ |0| := by
    rw [abs_zero, sub_nonpos, not_le]
    exact pow_lt_pow_right₀ (by norm_num) (by norm_num)
  refine ⟨fun _ => ⟨hfinite, fun z _ => ?_⟩, fun hge => absurd hge hbound, fun hne => absurd rfl hne⟩
  rw [hvalue, sub_self, abs_zero, sub_zero]
  exact ⟨abs_nonneg _, fun hne heq => absurd (abs_eq_zero.mp heq) hne⟩

/-- The result of rounding has the sign it was given, whatever it rounds to (43_transform_engine.md R176). -/
theorem sign64_roundPack (neg : Bool) (m : Nat) (e : ℤ) : sign64 (roundPack neg m e) = neg := by
  by_cases hm : m = 0
  · rw [roundPack, if_pos hm, sign64_zeroWord]
  · rw [roundPack_eq neg hm, sign64_roundedPattern]

theorem roundPack_roundsTo (neg : Bool) (m : Nat) (e : ℤ) :
    RoundsTo (signFactor neg * (m * 2 ^ e)) (roundPack neg m e) := by
  by_cases hm : m = 0
  · rw [roundPack, if_pos hm, hm, Nat.cast_zero, zero_mul, mul_zero]
    exact zeroWord_roundsTo neg
  · exact roundPack_roundsTo_of_roundsAs neg hm (.inl rfl)

/-- A value of at most 53 bits is exact (43_transform_engine.md R187). -/
theorem natF64_exact {n : Nat} (hn : n < 2 ^ 53) : finite64 (natF64 n) = true ∧ value64 (natF64 n) = n := by
  by_cases h0 : n = 0
  · subst h0
    simpa [natF64, roundPack] using zeroWord_value false
  · have hlog : Nat.log2 n < 53 := (Nat.log2_lt h0).mpr hn
    have hplace : lastPlace n 0 ≤ 0 := by simp only [lastPlace]; omega
    obtain ⟨d, hd⟩ := Int.eq_ofNat_of_zero_le (sub_nonneg.mpr hplace)
    have hround := (show RoundsAs n n 0 from .inl rfl).rounding h0
    have hbound : (n : ℚ) * 2 ^ (0 - lastPlace n 0) * 2 ^ lastPlace n 0 < 2 ^ 1024 - 2 ^ 970 := by
      rw [mul_assoc, ← zpow_add₀ (by norm_num), sub_add_cancel, zpow_zero, mul_one, lt_sub_iff_add_lt]
      calc (n : ℚ) + 2 ^ 970 < 2 ^ 970 + 2 ^ 970 := by
            have hn' : (n : ℚ) < 2 ^ 53 := by exact_mod_cast hn
            have hpow : (2 : ℚ) ^ 53 ≤ 2 ^ 970 := pow_le_pow_right₀ (by norm_num) (by norm_num)
            exact add_lt_add_of_lt_of_le (hn'.trans_le hpow) (le_refl _)
        _ = 2 ^ 971 := by rw [← two_mul, ← pow_succ']
        _ ≤ 2 ^ 1024 := pow_le_pow_right₀ (by norm_num) (by norm_num)
    obtain ⟨hfinite, hvalue⟩ := hround.value false hbound
    rw [natF64, roundPack_eq false h0]
    refine ⟨hfinite, hvalue.trans ?_⟩
    rw [roundedSignificand, if_pos hplace, hd, Int.toNat_natCast, show lastPlace n 0 = -d by omega, signFactor]
    push_cast
    rw [mul_assoc (n : ℚ), zpow_neg, zpow_natCast, mul_inv_cancel₀ (by positivity)]
    simp

end Sys2Proof.Machine
end

section
/-! The binary64 operations (43_transform_engine.md R176, R177, log entry 14): each is the exact result rounded once,
the cases with zeros, infinities and NaN, and the divisor of FFT.INV. -/

namespace Sys2Proof.Machine

/-! ### Finite operands -/

theorem fin_value (s : Bool) (m : Nat) (e : ℤ) {lo : ℤ} (h : lo ≤ e) :
    ((signedInt s (m * 2 ^ (e - lo).toNat) : ℤ) : ℚ) * 2 ^ lo = signFactor s * (m * 2 ^ e) := by
  obtain ⟨d, hd⟩ := Int.eq_ofNat_of_zero_le (sub_nonneg.mpr h)
  have hscale : (2 : ℚ) ^ e = 2 ^ d * 2 ^ lo := by
    rw [show e = d + lo by omega, zpow_add₀ (by norm_num), zpow_natCast]
  rw [hd, Int.toNat_natCast, hscale]
  cases s
  · simp [signedInt, signFactor, mul_assoc]
  · simp [signedInt, signFactor, mul_assoc]

/-- An integer is its sign times its magnitude. -/
theorem signFactor_mul_natAbs (x : ℤ) : signFactor (decide (x < 0)) * (x.natAbs : ℚ) = x := by
  rw [Nat.cast_natAbs, Int.cast_abs]
  by_cases hx : x < 0
  · simp [signFactor, hx, abs_of_neg (show (x : ℚ) < 0 by exact_mod_cast hx)]
  · simp [signFactor, hx, abs_of_nonneg (show (0 : ℚ) ≤ x by exact_mod_cast not_lt.mp hx)]

/-- The sum of two finite values is the exact sum rounded once, and a zero sum is negative when both are. -/
theorem addF64_fin (s t : Bool) (m n : Nat) (e f : ℤ) :
    RoundsTo (signFactor s * (m * 2 ^ e) + signFactor t * (n * 2 ^ f)) (addF64 (.fin s m e) (.fin t n f)) ∧
      (signFactor s * (m * 2 ^ e) + signFactor t * (n * 2 ^ f) = 0 →
        addF64 (.fin s m e) (.fin t n f) = zeroWord (s && t)) := by
  have hvalue : signFactor s * (m * 2 ^ e) + signFactor t * (n * 2 ^ f) =
      ((signedInt s (m * 2 ^ (e - min e f).toNat) + signedInt t (n * 2 ^ (f - min e f).toNat) : ℤ) : ℚ) *
        2 ^ min e f := by
    rw [Int.cast_add, add_mul, fin_value s m e (min_le_left e f), fin_value t n f (min_le_right e f)]
  simp only [addF64, hvalue]
  generalize signedInt s (m * 2 ^ (e - min e f).toNat) + signedInt t (n * 2 ^ (f - min e f).toNat) = sum
  by_cases hsum : sum = 0
  · rw [if_pos hsum, hsum, Int.cast_zero, zero_mul]
    exact ⟨zeroWord_roundsTo _, fun _ => rfl⟩
  · rw [if_neg hsum]
    refine ⟨?_, fun hzero => absurd ?_ hsum⟩
    · rw [← signFactor_mul_natAbs sum, mul_assoc]
      exact roundPack_roundsTo _ _ _
    · exact Int.cast_eq_zero.mp ((mul_eq_zero.mp hzero).resolve_right (by positivity))

theorem mulF64_fin (s t : Bool) (m n : Nat) (e f : ℤ) :
    RoundsTo (signFactor s * (m * 2 ^ e) * (signFactor t * (n * 2 ^ f))) (mulF64 (.fin s m e) (.fin t n f)) := by
  have hround := roundPack_roundsTo (s != t) (m * n) (e + f)
  have hvalue : signFactor (s != t) * (((m * n : Nat) : ℚ) * 2 ^ (e + f)) =
      signFactor s * (m * 2 ^ e) * (signFactor t * (n * 2 ^ f)) := by
    rw [signFactor_bne, zpow_add₀ (by norm_num)]
    push_cast
    ring
  rwa [hvalue] at hround

/-- The quotient with its sticky bit: 129 more places than the operands, and an odd last bit when a remainder is
left. -/
def stickyQuotient (m n : Nat) : Nat :=
  2 * (m * 2 ^ 128 / n) + if m * 2 ^ 128 % n = 0 then 0 else 1

theorem divF64_fin_eq (s t : Bool) (m : Nat) {n : Nat} (hn : n ≠ 0) (e f : ℤ) :
    divF64 (.fin s m e) (.fin t n f) = roundPack (s != t) (stickyQuotient m n) (e - f - 129) :=
  if_neg hn

/-- The exact quotient rounds as the one with the sticky bit does, which has far more than 53 bits. -/
theorem roundsAs_stickyQuotient {m n : Nat} (hm : m ≠ 0) (hn : n ≠ 0) (hn53 : n < 2 ^ 53) (e : ℤ) :
    stickyQuotient m n ≠ 0 ∧ RoundsAs ((m : ℚ) / n * 2 ^ 129) (stickyQuotient m n) e := by
  have hlarge : 2 ^ 75 ≤ m * 2 ^ 128 / n := by
    rw [Nat.le_div_iff_mul_le (by omega)]
    calc 2 ^ 75 * n ≤ 2 ^ 75 * 2 ^ 53 := Nat.mul_le_mul_left _ hn53.le
      _ ≤ m * 2 ^ 128 := by omega
  have hdiv := Nat.div_add_mod (m * 2 ^ 128) n
  have hmod : m * 2 ^ 128 % n < n := Nat.mod_lt _ (by omega)
  have hexact : (m : ℚ) / n * 2 ^ 129 = 2 * ((m * 2 ^ 128 / n : Nat) : ℚ) + 2 * ((m * 2 ^ 128 % n : Nat) : ℚ) / n := by
    have hdivQ : (n : ℚ) * (m * 2 ^ 128 / n : Nat) + (m * 2 ^ 128 % n : Nat) = m * 2 ^ 128 := by exact_mod_cast hdiv
    have hnQ : (n : ℚ) ≠ 0 := by exact_mod_cast hn
    field_simp
    linarith
  rw [hexact, RoundsAs, stickyQuotient]
  generalize m * 2 ^ 128 / n = quotient at *
  generalize m * 2 ^ 128 % n = remainder at *
  by_cases hrem : remainder = 0
  · rw [if_pos hrem, hrem]
    exact ⟨by omega, .inl (by push_cast; ring)⟩
  · rw [if_neg hrem]
    refine ⟨by omega, .inr ⟨by omega, ?_, ?_⟩⟩
    · have hnQ : (0 : ℚ) < n := by exact_mod_cast Nat.pos_of_ne_zero hn
      have hpos : 0 < 2 * (remainder : ℚ) / n := div_pos (by exact_mod_cast (by omega : 0 < 2 * remainder)) hnQ
      have hlt : 2 * (remainder : ℚ) / n < 2 := by
        rw [div_lt_iff₀ hnQ]
        exact_mod_cast (by omega : 2 * remainder < 2 * n)
      push_cast
      exact abs_lt.mpr ⟨by linarith, by linarith⟩
    · have hlog : 54 ≤ Nat.log2 (2 * quotient + 1) := (Nat.le_log2 (by omega)).mpr (by omega)
      simp only [lastPlace]
      omega

theorem divF64_fin (s t : Bool) (m : Nat) {n : Nat} (hn : n ≠ 0) (hn53 : n < 2 ^ 53) (e f : ℤ) :
    RoundsTo (signFactor s * (m * 2 ^ e) / (signFactor t * (n * 2 ^ f))) (divF64 (.fin s m e) (.fin t n f)) := by
  rw [divF64_fin_eq s t m hn]
  by_cases hm : m = 0
  · subst hm
    simpa [stickyQuotient, roundPack] using zeroWord_roundsTo (s != t)
  · obtain ⟨hne, hround⟩ := roundsAs_stickyQuotient hm hn hn53 (e - f - 129)
    have hresult := roundPack_roundsTo_of_roundsAs (s != t) hne hround
    have hvalue : signFactor (s != t) * ((m : ℚ) / n * 2 ^ 129 * 2 ^ (e - f - 129)) =
        signFactor s * (m * 2 ^ e) / (signFactor t * (n * 2 ^ f)) := by
      have hsign : signFactor t ≠ 0 := by cases t <;> norm_num [signFactor]
      have hinv : signFactor s * signFactor t = signFactor s / signFactor t := by
        rw [eq_div_iff hsign, mul_assoc, signFactor_mul_self, mul_one]
      rw [signFactor_bne, hinv, zpow_sub₀ (by norm_num), zpow_sub₀ (by norm_num)]
      have hnQ : (n : ℚ) ≠ 0 := by exact_mod_cast hn
      have hpow : (2 : ℚ) ^ (129 : ℤ) = 2 ^ 129 := by norm_cast
      rw [hpow]
      field_simp
    rwa [hvalue] at hresult

/-- A finite value is zero exactly when its significand is. -/
theorem fin_value_eq_zero_iff (s : Bool) (m : Nat) (e : ℤ) : signFactor s * (m * 2 ^ e : ℚ) = 0 ↔ m = 0 := by
  have hsign : signFactor s ≠ 0 := by cases s <;> norm_num [signFactor]
  simp [hsign, zpow_ne_zero]

theorem sign64_divF64_fin (s t : Bool) (m : Nat) {n : Nat} (hn : n ≠ 0) (e f : ℤ) :
    sign64 (divF64 (.fin s m e) (.fin t n f)) = (s != t) := by
  rw [divF64_fin_eq s t m hn, sign64_roundPack]

theorem arithmetic_finite {x y : Word} (hx : finite64 x = true) (hy : finite64 y = true) :
    RoundsTo (value64 x + value64 y) (fadd x y) ∧ RoundsTo (value64 x - value64 y) (fsub x y) ∧
    RoundsTo (value64 x * value64 y) (fmul x y) ∧ (value64 y ≠ 0 → RoundsTo (value64 x / value64 y) (fdiv x y)) ∧
    (value64 x + value64 y = 0 → sign64 (fadd x y) = (sign64 x && sign64 y)) ∧
    (value64 x - value64 y = 0 → sign64 (fsub x y) = (sign64 x && !sign64 y)) ∧
    sign64 (fmul x y) = (sign64 x != sign64 y) ∧
    (value64 y ≠ 0 → sign64 (fdiv x y) = (sign64 x != sign64 y)) := by
  obtain ⟨m, e, hfx, hvx, -, -⟩ := f64_of_finite hx
  obtain ⟨n, f, hfy, hvy, hn, -⟩ := f64_of_finite hy
  have hminus : value64 x - value64 y =
      signFactor (sign64 x) * (m * 2 ^ e) + signFactor (!sign64 y) * (n * 2 ^ f) := by
    rw [hvx, hvy, signFactor_not]
    ring
  rw [hminus]
  simp only [fadd, fsub, fmul, fdiv, hfx, hfy, hvx, hvy, F64.neg, ne_eq, fin_value_eq_zero_iff (sign64 y)]
  obtain ⟨hadd, haddZero⟩ := addF64_fin (sign64 x) (sign64 y) m n e f
  obtain ⟨hsub, hsubZero⟩ := addF64_fin (sign64 x) (!sign64 y) m n e f
  exact ⟨hadd, hsub, mulF64_fin _ _ _ _ _ _, fun h0 => divF64_fin _ _ _ h0 hn _ _,
    fun h0 => by rw [haddZero h0, sign64_zeroWord], fun h0 => by rw [hsubZero h0, sign64_zeroWord],
    sign64_roundPack _ _ _, fun h0 => sign64_divF64_fin _ _ _ h0 _ _⟩

/-! ### Commutativity -/

theorem addF64_comm : ∀ a b : F64, addF64 a b = addF64 b a
  | .nan, .nan | .nan, .inf _ | .nan, .fin _ _ _ | .inf _, .nan | .fin _ _ _, .nan => rfl
  | .inf _, .fin _ _ _ | .fin _ _ _, .inf _ => rfl
  | .inf s, .inf t => by cases s <;> cases t <;> rfl
  | .fin s m e, .fin t n f => by
    simp only [addF64, min_comm f e, Bool.and_comm t s]
    rw [add_comm]

theorem mulF64_comm : ∀ a b : F64, mulF64 a b = mulF64 b a
  | .nan, .nan | .nan, .inf _ | .nan, .fin _ _ _ | .inf _, .nan | .fin _ _ _, .nan => rfl
  | .inf s, .inf t | .inf s, .fin t _ _ | .fin s _ _, .inf t => by rw [mulF64, mulF64, bne_comm]
  | .fin s m e, .fin t n f => by rw [mulF64, mulF64, bne_comm, mul_comm, add_comm]

theorem fmul_comm (x y : Word) : fmul x y = fmul y x := mulF64_comm _ _

/-- Complex multiplication commutes bit for bit (43_transform_engine.md R177). -/
theorem cmul_comm (a b : Cplx) : cmul a b = cmul b a := by
  rw [cmul, cmul, fmul_comm b.re, fmul_comm b.im, fmul_comm b.re, fmul_comm b.im, fadd, fadd, addF64_comm]

/-! ### Infinities, zeros and NaN -/

theorem infinityWord_literal (neg : Bool) :
    infinityWord neg = if neg then 0xFFF0000000000000 else 0x7FF0000000000000 := by cases neg <;> rfl

theorem zeroWord_literal (neg : Bool) :
    zeroWord neg = if neg then 0x8000000000000000 else 0x0000000000000000 := by cases neg <;> rfl

/-- A pattern is made of its three fields. -/
theorem eq_signedPattern_fields (w : Word) :
    w = signedPattern (sign64 w) (exponentField w * 2 ^ 52 + fractionField w) := by
  have hw := w.isLt
  have hsign : signBit (sign64 w) = 2 ^ 63 * (w.toNat / 2 ^ 63) := by
    have hbit : (sign64 w).toNat = w.toNat / 2 ^ 63 % 2 := by
      rw [sign64, BitVec.getLsbD, Nat.toNat_testBit]
    rw [signBit_eq, hbit, Nat.mod_eq_of_lt (by omega)]
  have hmag : exponentField w * 2 ^ 52 + fractionField w < 2 ^ 63 := by
    simp only [exponentField, fractionField]
    omega
  refine BitVec.eq_of_toNat_eq ?_
  rw [toNat_signedPattern _ hmag, hsign, exponentField, fractionField]
  omega

theorem f64_infinityWord (neg : Bool) : f64 (infinityWord neg) = .inf neg := by cases neg <;> rfl

theorem f64_eq_inf_iff {x : Word} {neg : Bool} : f64 x = .inf neg ↔ x = infinityWord neg := by
  refine ⟨fun h => ?_, fun h => h ▸ f64_infinityWord neg⟩
  rw [f64_eq] at h
  split at h
  · next hexponent =>
    split at h
    · next hfraction =>
      obtain rfl := F64.inf.inj h
      conv_lhs => rw [eq_signedPattern_fields x, hexponent, hfraction]
      rfl
    · cases h
  · split at h <;> cases h

theorem f64_eq_nan_iff {x : Word} : f64 x = .nan ↔ finite64 x = false ∧ x.extractLsb' 0 52 ≠ 0 := by
  have hfinite : finite64 x = false ↔ exponentField x = 0x7FF := by
    rw [← Bool.not_eq_true, finite64_iff, not_not]
  have hfraction : x.extractLsb' 0 52 ≠ 0 ↔ fractionField x ≠ 0 := by
    rw [ne_eq, ← BitVec.toNat_inj, toNat_fraction]
    rfl
  rw [hfinite, hfraction, f64_eq]
  by_cases hexponent : exponentField x = 0x7FF
  · by_cases hzero : fractionField x = 0 <;> simp [hexponent, hzero]
  · by_cases hzero : exponentField x = 0 <;> simp [hexponent, hzero]

theorem addF64_nan_left (b : F64) : addF64 .nan b = canonicalNaN := rfl

theorem addF64_nan_right (a : F64) : addF64 a .nan = canonicalNaN := by cases a <;> rfl

theorem mulF64_nan_left (b : F64) : mulF64 .nan b = canonicalNaN := rfl

theorem mulF64_nan_right (a : F64) : mulF64 a .nan = canonicalNaN := by cases a <;> rfl

theorem divF64_nan_left (b : F64) : divF64 .nan b = canonicalNaN := rfl

theorem divF64_nan_right (a : F64) : divF64 a .nan = canonicalNaN := by cases a <;> rfl

/-- A NaN operand gives the canonical NaN (43_transform_engine.md R176). -/
theorem arithmetic_nan {x y : Word} (h : f64 x = .nan ∨ f64 y = .nan) :
    fadd x y = canonicalNaN ∧ fsub x y = canonicalNaN ∧ fmul x y = canonicalNaN ∧ fdiv x y = canonicalNaN := by
  rcases h with h | h
  · simp only [fadd, fsub, fmul, fdiv, h]
    exact ⟨addF64_nan_left _, addF64_nan_left _, mulF64_nan_left _, divF64_nan_left _⟩
  · simp only [fadd, fsub, fmul, fdiv, h, F64.neg]
    exact ⟨addF64_nan_right _, addF64_nan_right _, mulF64_nan_right _, divF64_nan_right _⟩

/-- x ⊖ x is +0 for a finite x (43_transform_engine.md R176). -/
theorem fsub_self_finite {x : Word} {neg : Bool} {m : Nat} {e : ℤ} (h : f64 x = .fin neg m e) : fsub x x = 0 := by
  obtain ⟨-, hzero⟩ := addF64_fin neg (!neg) m m e e
  rw [fsub, h, F64.neg, hzero (by rw [signFactor_not]; ring), Bool.and_not_self]
  rfl

theorem fsub_self_infinity {x : Word} {neg : Bool} (h : f64 x = .inf neg) : fsub x x = canonicalNaN := by
  rw [fsub, h]
  cases neg <;> rfl

/-- An infinity with a finite value, on either side. -/
theorem arithmetic_infinity_finite {x y : Word} {neg : Bool} (hx : f64 x = .inf neg) (hy : finite64 y = true) :
    fadd x y = infinityWord neg ∧ fadd y x = infinityWord neg ∧ fsub x y = infinityWord neg ∧
      fsub y x = infinityWord (!neg) ∧
      (value64 y ≠ 0 → fmul x y = infinityWord (neg != sign64 y) ∧ fmul y x = infinityWord (neg != sign64 y)) ∧
      (value64 y = 0 → fmul x y = canonicalNaN ∧ fmul y x = canonicalNaN) ∧
      fdiv x y = infinityWord (neg != sign64 y) ∧ fdiv y x = zeroWord (neg != sign64 y) := by
  obtain ⟨n, f, hfy, hvy, -, -⟩ := f64_of_finite hy
  have hmul : fmul x y = if n = 0 then canonicalNaN else infinityWord (neg != sign64 y) := by rw [fmul, hx, hfy, mulF64]
  rw [fmul_comm y x, hmul, hvy, ne_eq, fin_value_eq_zero_iff]
  simp only [fadd, fsub, fdiv, hx, hfy, F64.neg]
  refine ⟨rfl, rfl, rfl, rfl, fun h0 => ⟨if_neg h0, if_neg h0⟩, fun h0 => ⟨if_pos h0, if_pos h0⟩, rfl, ?_⟩
  rw [divF64, bne_comm]

theorem arithmetic_infinities {x y : Word} {s t : Bool} (hx : f64 x = .inf s) (hy : f64 y = .inf t) :
    fadd x y = (if s = t then infinityWord s else canonicalNaN) ∧
      fsub x y = (if s = t then canonicalNaN else infinityWord s) ∧
      fmul x y = infinityWord (s != t) ∧ fdiv x y = canonicalNaN := by
  simp only [fadd, fsub, fmul, fdiv, hx, hy, F64.neg]
  refine ⟨rfl, ?_, rfl, rfl⟩
  cases s <;> cases t <;> rfl

/-- Division of a finite value by a zero. -/
theorem fdiv_zero {x y : Word} (hx : finite64 x = true) (hy : finite64 y = true) (h0 : value64 y = 0) :
    fdiv x y = if value64 x = 0 then canonicalNaN else infinityWord (sign64 x != sign64 y) := by
  obtain ⟨m, e, hfx, hvx, -, -⟩ := f64_of_finite hx
  obtain ⟨n, f, hfy, hvy, -, -⟩ := f64_of_finite hy
  rw [hvy, fin_value_eq_zero_iff] at h0
  simp only [fdiv, hfx, hfy, hvx, fin_value_eq_zero_iff]
  exact if_pos h0

/-- Settles O42: the finite operations are rounded once, and the other cases are those of the operations'
definitions. -/
theorem binaryArithmeticLaws : Obligations.BinaryArithmeticLaws := by
  unfold Obligations.BinaryArithmeticLaws
  intro inf zero nan
  simp only [inf, zero, ← infinityWord_literal, ← zeroWord_literal]
  exact ⟨cmul_comm, fun x y => arithmetic_finite, fun x y =>
    ⟨arithmetic_nan, fun _ _ _ => fsub_self_finite, fun _ => fsub_self_infinity, fun _ => f64_eq_inf_iff,
      fun _ => arithmetic_infinity_finite, fun _ _ => arithmetic_infinities, fdiv_zero,
      fun neg neg' e hx hy => by rw [fmul, hx, hy]; rfl, f64_eq_nan_iff, rfl⟩⟩

/-! ### FFT.INV -/

/-- Settles O41: the network computes the transform and its inverse over a ring, n has few bits, and FFT.INV stores the
quotients. -/
theorem fftInverseRunsNetwork : Obligations.FftInverseRunsNetwork :=
  ⟨fun _ _ _ _ _ _ _ hw hlen => ⟨fun _ hk => getElem?_network_powers hw hlen hk,
      fun hinv => network_powers_inversion hw hinv hlen⟩,
    fun _ hn => natF64_exact (hn.trans_lt (by norm_num)),
    fun s hwf hready hlen hmax => exec_pairs_end (exec_fftInv hready hlen) hwf (length_fftInverse _ s) hmax⟩

end Sys2Proof.Machine
end

section
/-! The ends of the commands (60_exceptions.md R210 to R215): every command succeeds, or raises an error of its row of
the table of R212 with little changed. -/

namespace Sys2Proof.Machine

/-! ### The errors of the core functions -/

theorem primRootSearch_error {m : Nat} {e : ErrorCode} (h : primRootSearch m = .error e) :
    e = .primitiveRootNotFound := by
  unfold primRootSearch at h
  split at h
  · cases h
  · exact (Except.error.inj h).symm

theorem modInvCore_error {a : Int} {m : Nat} {e : ErrorCode} (h : modInvCore a m = .error e) : e = .invalidGcd := by
  rw [modInvCore_eq] at h
  split at h
  · exact (Except.error.inj h).symm
  · cases h

theorem rootOfUnityCore_error {m : Nat} {k : Int} {e : ErrorCode} (h : rootOfUnityCore m k = .error e) :
    e ∈ [ErrorCode.invalidOrder, .primitiveRootNotFound, .rootDegenerate] := by
  unfold rootOfUnityCore at h
  split at h
  · cases h; decide
  · split at h
    · next hsearch =>
      cases h
      rw [primRootSearch_error hsearch]
      decide
    · dsimp only at h
      split at h
      · cases h; decide
      · cases h

/-- The parameters of an NTT engine fail with an error of the root, of its power, or of one of the two inverses. -/
theorem nttParameters_error {q n : Nat} {e : ErrorCode} (h : nttParameters q n = .error e) :
    e ∈ [ErrorCode.invalidOrder, .primitiveRootNotFound, .rootDegenerate, .invalidGcd] := by
  unfold nttParameters at h
  split at h
  · next hroot =>
    cases h
    exact List.mem_append_left [.invalidGcd] (rootOfUnityCore_error hroot)
  · split at h
    · cases h; decide
    · split at h
      · next hinv =>
        cases h
        rw [modInvCore_error hinv]
        decide
      · split at h
        · next hinv =>
          cases h
          rw [modInvCore_error hinv]
          decide
        · cases h

/-! ### Outcomes that are an end of a command -/

/-- What a command has done to the state when it meets an error, but for its draws: a utility command has cleared the
results, and an INIT has destroyed the old engine (60_exceptions.md R210, R215). -/
def abandoned (i : Instr) (s : State) : State :=
  match i with
  | .isprime | .primroot | .rootunity | .egcd | .modinv | .pow | .ispow2 | .bitrevn => clearResults s
  | .nttInit => releaseNtt s
  | .fftInit => releaseFft s
  | .nop | .nttFwd | .fftFwd | .nttInv | .fftInv | .nttRelease | .fftRelease | .bitrevW | .bitrevC => s

theorem abandoned_utility {i : Instr} (hi : isUtility i = true) (s : State) : abandoned i s = clearResults s := by
  cases i with
  | isprime | primroot | rootunity | egcd | modinv | pow | ispow2 | bitrevn => rfl
  | nop | nttInit | fftInit | nttFwd | fftFwd | nttInv | fftInv | nttRelease | fftRelease | bitrevW | bitrevC =>
    cases hi

theorem abandoned_mem (i : Instr) (s : State) : (abandoned i s).mem = s.mem := by cases i <;> rfl

/-- The ends of command `i` from state `s`: a success, or one of its marked errors. -/
inductive MarkedEnd (i : Instr) (s : State) : Host.Outcome State Fault Refusal → Prop
  | success (b : State) : MarkedEnd i s (succeed b)
  | error {e : ErrorCode} (he : e ∈ markedErrors i) (g : WitnessGen) :
      MarkedEnd i s (raise e (setGen g (abandoned i s)))

section
variable {i : Instr} {s : State} {e : ErrorCode} {o : Host.Outcome State Fault Refusal}

/-- An error met before any draw. -/
theorem MarkedEnd.of_raise (he : e ∈ markedErrors i) : MarkedEnd i s (raise e (abandoned i s)) := by
  have hgen : setGen (abandoned i s).gen (abandoned i s) = abandoned i s := rfl
  exact hgen ▸ .error he _

/-- A condition that both ways leads to an end. -/
theorem MarkedEnd.of_ite {c : Prop} [Decidable c] {o' : Host.Outcome State Fault Refusal} (ho : MarkedEnd i s o)
    (ho' : MarkedEnd i s o') : MarkedEnd i s (if c then o else o') := by
  split
  · exact ho
  · exact ho'

/-- An operand check before any draw. -/
theorem MarkedEnd.of_check {c : Prop} [Decidable c] (he : e ∈ markedErrors i) (ho : MarkedEnd i s o) :
    MarkedEnd i s (if c then raise e (abandoned i s) else o) :=
  .of_ite (.of_raise he) ho

/-- The answer of a core function whose errors are all marked. -/
theorem MarkedEnd.of_finishNat {r : Except ErrorCode Nat} (hr : ∀ e, r = .error e → e ∈ markedErrors i)
    (g : WitnessGen) (hi : abandoned i s = clearResults s) :
    MarkedEnd i s (finishNat r (setGen g (clearResults s))) := by
  cases r with
  | ok v => exact .success _
  | error e => exact hi ▸ .error (hr e rfl) g

/-- The core function of a modular inverse, where INVALID_GCD is marked. -/
theorem MarkedEnd.of_modInvCore (he : .invalidGcd ∈ markedErrors i) (hi : abandoned i s = clearResults s) (a : Int)
    (m : Nat) : MarkedEnd i s (finishNat (modInvCore a m) (clearResults s)) :=
  .of_finishNat (fun _ h => modInvCore_error h ▸ he) s.gen hi

end

/-! ### The commands -/

theorem execNttInit_markedEnd (s : State) : MarkedEnd .nttInit s (execNttInit s) := by
  refine .of_check (by decide) (.of_check (by decide) (.of_ite (.error (by decide) _) ?_))
  split
  · next e he =>
    have hsub : [ErrorCode.invalidOrder, .primitiveRootNotFound, .rootDegenerate, .invalidGcd] ⊆
        markedErrors .nttInit := by decide
    exact .error (hsub (nttParameters_error he)) _
  · exact .success _

theorem execPrimroot_markedEnd (s : State) : MarkedEnd .primroot s (execPrimroot s) := by
  refine .of_ite (.error (by decide) _) (.of_finishNat (fun e he => ?_) _ rfl)
  exact primRootSearch_error he ▸ by decide

theorem execRootunity_markedEnd (s : State) : MarkedEnd .rootunity s (execRootunity s) := by
  refine .of_ite (.error (by decide) _) (.of_finishNat (fun e he => ?_) _ rfl)
  exact List.mem_cons_of_mem _ (rootOfUnityCore_error he)

theorem execPow_markedEnd (s : State) : MarkedEnd .pow s (execPow s) :=
  .of_check (by decide) (.of_check (by decide) (.of_ite (.of_modInvCore (by decide) rfl _ _) (.success _)))

/-- Every command succeeds or raises one of its marked errors (60_exceptions.md R212). -/
theorem exec_markedEnd (i : Instr) (s : State) : MarkedEnd i s (exec i s) := by
  cases i with
  | nop | nttRelease | fftRelease | isprime | ispow2 => exact .success _
  | nttInit => exact execNttInit_markedEnd s
  | fftInit | nttFwd | fftFwd | nttInv | fftInv | bitrevW | bitrevC =>
    exact .of_check (by decide) (.of_check (by decide) (.success _))
  | egcd | bitrevn => exact .of_check (by decide) (.success _)
  | modinv => exact .of_check (by decide) (.of_modInvCore (by decide) rfl _ _)
  | primroot => exact execPrimroot_markedEnd s
  | rootunity => exact execRootunity_markedEnd s
  | pow => exact execPow_markedEnd s

/-- The next state of a command: the completion of a success, or of a marked error. -/
theorem exec_next {i : Instr} {s t : State} (h : exec i s = .next t) :
    (∃ b, t = complete 0 b) ∨
    ∃ e ∈ markedErrors i, ∃ g, t = complete e.code (setGen g (abandoned i s)) := by
  generalize ho : exec i s = o at h
  cases ho ▸ exec_markedEnd i s with
  | success b => exact .inl ⟨b, succeed_next.mp h⟩
  | error he g => exact .inr ⟨_, he, g, raise_next.mp h⟩

/-! ### The statements -/

/-- Settles O9: a command's code is 0 or that of the marked error it raised. -/
theorem codesAreTheMarkedOnes : Obligations.CodesAreTheMarkedOnes := by
  refine ⟨fun i s t h => ?_, fun s e hbusy hdecode => ⟨_, runEngine_illegal hbusy hdecode, rfl⟩⟩
  rcases exec_next h with ⟨b, rfl⟩ | ⟨e, he, g, rfl⟩
  · exact .inl rfl
  · exact .inr ⟨e, he, rfl⟩

/-- A next state with ERR set is the completion of a marked error. -/
theorem exec_next_err {i : Instr} {s t : State} (h : exec i s = .next t) (herr : t.status.err = true) :
    ∃ e ∈ markedErrors i, ∃ g, t = complete e.code (setGen g (abandoned i s)) := by
  rcases exec_next h with ⟨b, rfl⟩ | herror
  · cases herr
  · exact herror

/-- Settles O10: an error leaves the abandoned state completed, within the command's frame; a release has no error to
raise. -/
theorem errorCompletionState : Obligations.ErrorCompletionState := by
  refine ⟨fun e s => ?_, fun i s t h herr => ?_⟩
  · rw [raise, complete, Status.completed, bne_iff_ne.mpr e.code_ne_zero]
  obtain ⟨hoperands, hresults, -, hntt, hfft, -⟩ := exec_framed h
  obtain ⟨-, hcmd, -, -, -, hopa, hopb, hopc, hlen, -⟩ := hoperands
  obtain ⟨e, he, g, rfl⟩ := exec_next_err h herr
  have hnotRelease : i ≠ .nttRelease ∧ i ≠ .fftRelease := by
    constructor <;> rintro rfl <;> exact absurd he List.not_mem_nil
  refine ⟨⟨e, he, rfl⟩, rfl, rfl, e.code_ne_zero, rfl, hcmd, hopa, hopb, hopc, hlen, fun hi => ?_, hresults, ?_,
    fun hi => hntt hi hnotRelease.1, ?_, fun hi => hfft hi hnotRelease.2, abandoned_mem i s⟩
  · rw [abandoned_utility hi]
    exact ⟨rfl, rfl, rfl⟩
  · rintro rfl
    exact ⟨rfl, rfl⟩
  · rintro rfl
    exact ⟨rfl, rfl⟩

end Sys2Proof.Machine
end

section
/-! The interrupt line (60_exceptions.md R220): which effects of a step set PEND, and the writes to IRQ and CTRL. -/

namespace Sys2Proof.Machine

/-! ### PEND -/

/-- The flags of every completion (40_control.md R112). -/
theorem CommandEnd.completed {s t : State} (h : CommandEnd s t) :
    t.status.busy = false ∧ t.status.done = true ∧ t.irqPend = true := by
  cases h <;> exact ⟨rfl, rfl, rfl⟩

/-- With a command in flight the engine's turn ends it (40_control.md R111). -/
theorem commandEnd_of_runEngine {s t : State} (hbusy : s.status.busy = true) (h : runEngine s = .next t) :
    CommandEnd s t := by
  rcases runEngine_next h with ⟨hidle, -⟩ | ⟨-, i, -, h⟩ | ⟨-, -, rfl⟩
  · exact absurd hbusy (Bool.eq_false_iff.mp hidle)
  · exact exec_end h
  · exact .error .illegalCommand s .nothing

/-- No host transaction sets PEND. -/
theorem HostEffect.irqPend {s u : State} (h : HostEffect s u) (hu : u.irqPend = true) : s.irqPend = true := by
  cases h with
  | softReset | acknowledge => cases hu
  | nothing | overrun | accept | irqEnable | trials | seed | operands => exact hu
  | memory b k v => rwa [bankWrite_irqPend] at hu

/-- A step after which PEND is 1 found it so or completed a command. -/
theorem StepEffect.irqPend {s t : State} (h : StepEffect s t) (ht : t.irqPend = true) :
    s.irqPend = true ∨ (s.status.busy = true ∧ t.status.busy = false ∧ t.status.done = true) := by
  cases h with
  | idle => exact .inl ht
  | command hbusy h =>
    obtain ⟨hidle, hdone, -⟩ := h.completed
    exact .inr ⟨hbusy, hidle, hdone⟩
  | host r h => exact .inl (h.irqPend ht)
  | powerOn c => cases ht

/-! ### The writes to IRQ and CTRL -/

theorem serve_write_irq (s : State) (v : Word) : serve (.write (regAddr .irq) 0xFF v) s =
    respond (.write .okay) { s with irqPend := s.irqPend && !v.getLsbD 0 } := by
  rw [serve_write_regAddr_open (r := .irq) rfl nofun, writeReg, writeIrq_eq]

theorem serve_write_ctrl_enable {v : Word} (h : v.getLsbD 1 = false) (s : State) :
    serve (.write (regAddr .ctrl) 0xFF v) s = respond (.write .okay) { s with irqEn := v.getLsbD 0 } := by
  rw [serve_write_regAddr_open (r := .ctrl) rfl nofun, writeReg, writeCtrl,
    if_neg (Bool.eq_false_iff.mp h)]

/-- Settles O53: the completions set PEND, no other effect of a step does, and the two writes have their registers'
effects, BUSY or not. -/
theorem interruptLine : Obligations.InterruptLine := by
  refine ⟨fun _ => rfl, fun s t hbusy h => ?_, fun s t h ht => ?_, serve_write_irq,
    fun s v hbit => serve_write_ctrl_enable hbit s⟩
  · obtain ⟨-, -, hpend⟩ := (commandEnd_of_runEngine hbusy h).completed
    exact hpend
  · obtain ⟨es, he⟩ := step_effect h
    exact he.irqPend ht

end Sys2Proof.Machine
end

section
/-! The two resets (70_reset_and_hazards.md R240 to R243): the registers and the generator take one set of values in
every reset, and the memories come up with the contents of the power-on event. -/

namespace Sys2Proof.Machine

/-! ### The reset values -/

/-- Every register but ID, the generator, BUSY and the interrupt line hold their reset values, the registers as the host
reads them (70_reset_and_hazards.md R240). -/
structure AtReset (s : State) : Prop where
  idle : s.status.busy = false
  gen : s.gen = WitnessGen.seeded 0
  irq : irqLine s = false
  trials : readReg s .mrTrials = 1000
  zero : ∀ r, r ≠ .id → r ≠ .mrTrials → readReg s r = 0

/-- The block after a reset: State.reset but for what a reset does not set. -/
def resetWith (config : Config) (mem : Memory) (schedule : List Event) (responses : List Response) : State :=
  { State.reset with config, mem, schedule, responses }

theorem reset_eq : State.reset = resetWith Config.reference [] [] [] := rfl

theorem softReset_eq (s : State) : softReset s = resetWith s.config s.mem s.schedule s.responses := rfl

theorem powerOnReset_eq (c : List Host.Cell) (s : State) :
    powerOnReset c s = resetWith s.config (powerOnMemory s.config c) s.schedule s.responses := rfl

theorem respond_resetWith (config : Config) (mem : Memory) (es : List Event) (rs : List Response) (r : Response) :
    respond r (resetWith config mem es rs) = resetWith config mem es (r :: rs) := rfl

/-- STATUS with no flag set reads 0 (10_state.md R26). -/
theorem word_cleared : Status.cleared.word = 0 := by decide

/-- CTRL and IRQ read 0 when their one bit is 0 (10_state.md R27, R30). -/
theorem bitWord_false : (0#63 : BitVec 63) ++ BitVec.ofBool false = (0 : Word) := by decide

/-- The reset values do not depend on the build, the memories, the events to come or the answers given. -/
theorem atReset_resetWith (config : Config) (mem : Memory) (es : List Event) (rs : List Response) :
    AtReset (resetWith config mem es rs) where
  idle := rfl
  gen := rfl
  irq := rfl
  trials := rfl
  zero r hid htrials := by
    cases r with
    | id => exact absurd rfl hid
    | mrTrials => exact absurd rfl htrials
    | status => exact word_cleared
    | ctrl | irq => exact bitWord_false
    | cmd | mrSeed | opa | opb | opc | len | res0 | res1 | res2 | nttQ | nttN | nttPsi | nttPsiInv
    | nttNInv | fftN | fftWRe | fftWIm => rfl

/-- Settles O56: State.reset is the reset of the reference build with nothing listed, scheduled or answered. -/
theorem resetState : Obligations.ResetState := by
  unfold Obligations.ResetState
  rw [reset_eq]
  obtain ⟨hidle, hgen, hirq, htrials, hzero⟩ := atReset_resetWith Config.reference [] [] []
  exact ⟨htrials, hgen, hirq, hidle, hzero⟩

/-- Settles O57: the flags and both contexts are cleared, MR_TRIALS is not 0, and no memory byte is listed. -/
theorem resetMeetsInvariants : Obligations.ResetMeetsInvariants :=
  ⟨⟨flagsSound_of_reset rfl rfl, ⟨wf_reset, nofun⟩, reset_mrTrials_ne_zero, rfl⟩, contextInv_of_reset rfl rfl rfl⟩

/-! ### The soft reset -/

/-- A write to CTRL with bit 1 set resets the block, BUSY or not (10_state.md R27). -/
theorem serve_write_ctrl_reset {v : Word} (h : v.getLsbD 1 = true) (s : State) :
    serve (.write (regAddr .ctrl) 0xFF v) s = respond (.write .okay) (softReset s) := by
  rw [serve_write_regAddr_open (r := .ctrl) rfl nofun, writeReg, writeCtrl, if_pos h]

/-- Settles O54: CTRL is open while BUSY, and the write leaves the block at reset with its memories, its build, its
events and one more answer. -/
theorem softResetState : Obligations.SoftResetState := by
  intro s v hbit
  rw [serve_write_ctrl_reset hbit, softReset_eq, respond_resetWith]
  obtain ⟨hidle, hgen, hirq, htrials, hzero⟩ :=
    atReset_resetWith s.config s.mem s.schedule (.write .okay :: s.responses)
  exact ⟨_, rfl, rfl, rfl, hidle, hgen, hirq, rfl, htrials, hzero⟩

/-! ### The memories after power-on -/

/-- The listed addresses rise: each exceeds the bound, and those before it. -/
theorem pairwise_of_risesFrom {lo : Option Nat} {m : Memory} (h : Memory.risesFrom lo m = true) :
    (∀ l, lo = some l → ∀ c ∈ m, l < c.1) ∧ m.Pairwise (fun c d => c.1 < d.1) := by
  induction m generalizing lo with
  | nil => exact ⟨nofun, .nil⟩
  | cons c m ih =>
    obtain ⟨hlo, hrest⟩ := (risesFrom_cons lo c.1 c.2 m).mp h
    obtain ⟨habove, hpairs⟩ := ih hrest
    refine ⟨fun l hl => List.forall_mem_cons.mpr ⟨hlo l hl, fun d hd => ?_⟩, .cons (habove c.1 rfl) hpairs⟩
    exact (hlo l hl).trans (habove c.1 rfl d hd)

/-- A byte above every listed one is listed last. -/
theorem writeByte_append {m : Memory} {a : Nat} {v : Byte} (habove : ∀ c ∈ m, c.1 < a) (hv : v ≠ unlistedByte) :
    m.writeByte a v = m ++ [(a, v)] := by
  induction m with
  | nil => exact if_neg hv
  | cons c m ih =>
    obtain ⟨hc, hm⟩ := List.forall_mem_cons.mp habove
    rw [Memory.writeByte, if_neg (Nat.lt_asymm hc), if_neg (Nat.ne_of_gt hc), ih hm]
    rfl

/-- Power-on writes the listed bytes that the build has, from the first to the last. -/
theorem powerOnMemory_append (c : Config) (m : List Host.Cell) (x : Host.Cell) :
    powerOnMemory c (m ++ [x]) =
      if mappedByte c x.1 then (powerOnMemory c m).writeByte x.1 x.2 else powerOnMemory c m := by
  rw [powerOnMemory, List.foldl_append]
  rfl

/-- Contents whose addresses rise inside the windows are built up entry by entry, each going to the end. -/
theorem powerOnMemory_of_pairwise {c : Config} {m : List Host.Cell} (hrise : m.Pairwise (fun x y => x.1 < y.1))
    (hlisted : ∀ x ∈ m, x.2 ≠ unlistedByte) (hmapped : ∀ x ∈ m, mappedByte c x.1 = true) : powerOnMemory c m = m := by
  induction m using List.reverseRecOn with
  | nil => rfl
  | append_singleton m x ih =>
    obtain ⟨hrise, -, hlast⟩ := List.pairwise_append.mp hrise
    obtain ⟨hlisted, hx⟩ := List.forall_mem_append.mp hlisted
    obtain ⟨hmapped, hxmapped⟩ := List.forall_mem_append.mp hmapped
    have hself : x ∈ [x] := List.mem_singleton_self x
    rw [powerOnMemory_append, if_pos (hxmapped x hself), ih hrise hlisted hmapped,
      writeByte_append (fun y hy => hlast y hy x hself) (hx x hself)]

/-- Canonical contents inside the windows are what the memories hold after power-on (70_reset_and_hazards.md R242). -/
theorem powerOnMemory_eq {c : Config} {m : List Host.Cell} (hwf : Memory.wf m = true)
    (hmapped : ∀ x ∈ m, mappedByte c x.1 = true) : powerOnMemory c m = m := by
  obtain ⟨hrise, hlisted⟩ := (wf_iff m).mp hwf
  exact powerOnMemory_of_pairwise (pairwise_of_risesFrom hrise).2 hlisted hmapped

/-- Settles O55: the power-on event leaves the block at reset with its build, its events and its answers, and the
memories hold the event's contents. -/
theorem powerOnState : Obligations.PowerOnState := by
  intro s c rest hschedule hwf hmapped
  have hstep : step s = .next (resetWith s.config c rest s.responses) := by
    rw [step_powerOn hschedule, powerOnReset_eq, powerOnMemory_eq hwf hmapped]
  obtain ⟨hidle, hgen, hirq, htrials, hzero⟩ := atReset_resetWith s.config c rest s.responses
  exact ⟨_, hstep, rfl, rfl, rfl, hidle, hgen, hirq, rfl, htrials, hzero⟩

end Sys2Proof.Machine
end
